-- ==== Sys2Proof/Word.lean ====
section
/-! DEFINITION. The words of the part: a byte of a station link, a web position, the cells of a mark. -/

namespace Sys2Proof

/-- One byte of a station link frame (R172). -/
abbrev Byte := BitVec 8

/-- A web position, 0 to 16,777,215, taken modulo 2 to the power 24 (R23, R25). -/
abbrev Pos := BitVec 24

/-- The 32 cells of a mark: bit i is the cell at position i, 1 when printed (R40). -/
abbrev Cells := BitVec 32

/-- The register of the frame check, 16 bits (R172). -/
abbrev Crc := BitVec 16

end Sys2Proof
end

