-- ==== Sys2Proof/Syntax.lean ====
section
/-! DEFINITION. The commands of the part: one constructor for each row of spec/opcode_table.json.

A request row is the TAKING of that request: its port removes the request at the head of its queue and the
owning block acts on it (R174, R175). The request itself, its body and its overrun mark came in by GOOD_FRAME and
stand in the port's queue, so a request row carries no body of its own. The other rows are the machine events. -/

namespace Sys2Proof

/-- The three station link ports. -/
inductive Port where
  | job
  | line
  | delivery
  deriving DecidableEq, Repr, Inhabited

/-- The two lanes of the web (R48). -/
inductive Lane where
  | left
  | right
  deriving DecidableEq, Repr, Inhabited

/-- The direction of an encoder step (R23). -/
inductive Direction where
  | forward
  | backward
  deriving DecidableEq, Repr, Inhabited

/-- One byte as a port's receive line brings it: its value, and whether its stop bit was seen (R173). -/
structure RxByte where
  value : Byte
  stop  : Bool
  deriving DecidableEq, Repr, Inhabited

/-- The commands. -/
inductive Instr where
  /-- The job port takes a LOAD PROFILE (R45, R46). -/
  | loadProfile
  /-- The job port takes a LOAD SET (R11). -/
  | loadSet
  /-- The job port takes an AMEND SET (R12, R13). -/
  | amendSet
  /-- The job port takes a CANCEL SET (R14). -/
  | cancelSet
  /-- The job port takes a RELEASE SET (R15). -/
  | releaseSet
  /-- The job port takes a QUERY SET (R16). -/
  | querySet
  /-- The job port takes a TAKE COMPLETION (R17). -/
  | takeCompletion
  /-- The job port takes a TAKE REPRINT (R18). -/
  | takeReprint
  /-- The line port takes a LOAD GEOMETRY (R33, R34). -/
  | loadGeometry
  /-- The line port takes a START (R155). -/
  | start
  /-- The line port takes a STOP (R156). -/
  | stop
  /-- The line port takes a PURGE (R161, R162). -/
  | purge
  /-- The line port takes a RESET LINE (R163). -/
  | resetLine
  /-- The line port takes a CLEAR CAPTURE (R61). -/
  | clearCapture
  /-- The line port takes a CLEAR TALLY (R169). -/
  | clearTally
  /-- The delivery port takes a SET READY (R145). -/
  | setReady
  /-- The delivery port takes a SET NOT READY (R145). -/
  | setNotReady
  /-- The delivery port takes an ACCEPT (R147). -/
  | accept
  /-- The delivery port takes a REFUSE (R148). -/
  | refuse
  /-- Port p takes a READ STATUS (R180). -/
  | readStatus (p : Port)
  /-- Port p takes a READ TALLY (R169). -/
  | readTally (p : Port)
  /-- Port p takes a READ CAPTURE (R61). -/
  | readCapture (p : Port)
  /-- Port p takes a CLEAR CONDITION (R179). -/
  | clearCondition (p : Port)
  /-- Port p takes a request whose kind is not a request kind of that port (R175). -/
  | undefinedRequestKind (p : Port)
  /-- Bytes arrive on the receive line of port p (R173, R174); a whole frame is one such run of bytes. -/
  | goodFrame (p : Port) (bytes : List RxByte)
  /-- 10 ms have passed from the sync byte of the frame in progress at port p (R173). -/
  | frameTimeout (p : Port)
  /-- The receive line of port p has been marking for 2 ms (R170). -/
  | linkUp (p : Port)
  /-- The receive line of port p has been spacing for 2 ms (R170, R171). -/
  | linkBreak (p : Port)
  /-- One step of the web encoder (R23, R26). -/
  | encoderStep (d : Direction)
  /-- The 4 ms speed update (R27). -/
  | speedUpdate
  /-- A bar event of the read head (R48). -/
  | barEvent (lane : Lane) (position : Pos) (cells : Cells) (truncated : Bool)
  /-- An edge of the accumulator-entry sensor (R105). -/
  | arrival
  /-- The hold timer runs out (R113). -/
  | holdTimerExpiry
  /-- The hand-over conditions are examined (R115). -/
  | handOver
  /-- The actuator timeout of the release runs out (R116). -/
  | releaseTimeout
  /-- The dump conditions are examined (R117). -/
  | dumpStart
  /-- The dump-done input (R118). -/
  | dumpDone
  /-- The actuator timeout of the dump runs out (R118). -/
  | dumpTimeout
  /-- The jog stroke conditions are examined (R119). -/
  | jogStrokeStart
  /-- The jog-done input (R119). -/
  | jogDone
  /-- The actuator timeout of the jog stroke runs out (R119). -/
  | jogTimeout
  /-- The jog interval timer runs out (R120, R121). -/
  | jogIntervalExpiry
  /-- The folder-entry sensor (R128, R129). -/
  | folderEntry
  /-- The fold-exit sensor (R131, R133). -/
  | foldExit
  /-- The fold timer runs out (R132). -/
  | foldTimerExpiry
  /-- The belt-end sensor (R141). -/
  | beltEnd
  /-- The belt travel timer runs out (R140). -/
  | beltTravelExpiry
  /-- The belt gate stroke conditions are examined (R143). -/
  | beltGateStroke
  /-- The gate-done input (R144). -/
  | beltGateDone
  /-- The actuator timeout of the belt gate stroke runs out (R143). -/
  | beltGateTimeout
  /-- The offer timer runs out (R149). -/
  | offerTimerExpiry
  /-- GUARD opens (R158). -/
  | guardOpen
  /-- GUARD closes (R158). -/
  | guardClose
  /-- The part is powered up; RETAIN and GUARD as they stand (R164). -/
  | powerUp (retainGood guardClosed : Bool)
  /-- The cold-start sweep completes; GUARD as it then stands (R165). -/
  | sweepComplete (guardClosed : Bool)
  deriving DecidableEq, Repr, Inhabited

end Sys2Proof
end

