-- ==== Sys2Proof/Decode.lean ====
section
/-! DEFINITION. The part has no instruction words: no row of spec/opcode_table.json gives bits ("fields" is empty in
every row), so no word spells a command. The frames that carry requests are read byte by byte in
Machine/Frames.lean and Machine/LinkEvents.lean (R172, R173). -/

namespace Sys2Proof

/-- The command that a word of nbits bits spells by the table's bits: none, since no row of the table has bits. -/
def decodeTableWord (_nbits _w : Nat) : Option Instr := none

end Sys2Proof
end

