-- ==== Sys2Proof/Machine/State.lean ====
section
/-! DEFINITION. The state of the part, block by block as the spec lays it out, and the state after reset.

Each block's record holds what its chapter says the block holds. Two records are the model's own and not the
spec's: `Event` (what the event under way has still to do at its end) and the counter `choices` (which free order is
next); `pending` is the host's queue of commands. Everything is plain data. -/

namespace Sys2Proof.Machine

/-! ### Why a step can stop -/

/-- The reasons the part stops with a fault. The spec gives every event of this part an effect and names no event
after which the part stops, so no meaning raises a fault. -/
inductive Fault where
  /-- Raised by no meaning: the spec gives the part no machine stop. Safe: nothing rests on it. -/
  | noSuchStop
  deriving DecidableEq, Repr, Inhabited

/-- The reasons a command is refused by the model. -/
inductive Refusal where
  /-- Raised by `exec` for a command that has no meaning yet. Safe: nothing can be proved of its effect. -/
  | notModelled (mnemonic : String)
  deriving DecidableEq, Repr, Inhabited

/-! ### Timers -/

/-- A timer: the µs it has left to run, or none while it is stopped (R26, "Events, operations and timers"). -/
abbrev Timer := Option Nat

/-! ### The Set Table (chapter 1) -/

/-- The fold kinds, in the order of Table 1-4. -/
inductive FoldKind where
  | none
  | half
  | letter
  | zed
  | double
  deriving DecidableEq, Repr, Inhabited

/-- The routes, in the order of Table 1-4. -/
inductive Route where
  | deliver
  | divert
  deriving DecidableEq, Repr, Inhabited

/-- A finishing step with its argument (Table 1-2). -/
inductive Step where
  | jog
  | hold (timeout : Nat)
  | await
  | fold (kind : FoldKind)
  | route (dest : Route)
  deriving DecidableEq, Repr, Inhabited

/-- The kinds of finishing step, in the order of Table 1-2. -/
inductive StepKind where
  | jog
  | hold
  | await
  | fold
  | route
  deriving DecidableEq, Repr, Inhabited

/-- The twelve set states, in the order of Table 1-5. -/
inductive SetState where
  | pending
  | active
  | collected
  | held
  | waiting
  | folding
  | onBelt
  | offered
  | rejecting
  | delivered
  | diverted
  | cancelled
  deriving DecidableEq, Repr, Inhabited

/-- The set fault causes, in the order of Table 1-6. -/
inductive SetCause where
  | outOfSequence
  | shortSet
  | missingLast
  | unreadPage
  | lostLock
  | missedFiring
  | missingSheet
  | accCollision
  | dumpCollision
  | holdExpired
  | foldJam
  | refused
  | offerExpired
  | routed
  | interrupted
  | purged
  deriving DecidableEq, Repr, Inhabited

/-- A set record (Table 1-1). Its tag and job colour are derived and never change: see `SetRec.tag`. -/
structure SetRec where
  /-- set number, 1 to 4,294,967,295 -/
  number : Nat
  /-- job id, 0 to 65,535 -/
  jobId : Nat
  /-- declared pages -/
  pages : Nat
  /-- priority, 0 to 7 -/
  priority : Nat
  /-- the finishing program, in order -/
  program : List Step
  state : SetState := .pending
  pagesRead : Nat := 0
  pagesArrived : Nat := 0
  readComplete : Bool := false
  /-- the accumulator step kinds completed, in the order in which they completed -/
  stepsPassed : List StepKind := []
  skewed : Bool := false
  preReleased : Bool := false
  cause : Option SetCause := none
  failingStep : Option Nat := none
  refuseCode : Option Nat := none
  reported : Bool := false
  deriving DecidableEq, Repr, Inhabited

/-- The layouts of a web (Table 3-5). -/
inductive Layout where
  | oneUp
  | twoUp
  deriving DecidableEq, Repr, Inhabited

/-- The lane orders (Table 3-5). -/
inductive LaneOrder where
  | leftFirst
  | rightFirst
  deriving DecidableEq, Repr, Inhabited

/-- The web profile (Table 3-5). -/
structure Profile where
  formLength : Nat
  tol : Nat
  markOffset : Nat
  layout : Layout
  order : LaneOrder
  mergeOffset : Nat
  skew : Nat
  strict : Bool
  deriving DecidableEq, Repr, Inhabited

/-- The Set Table block (R1, R2, R9, R10, R44). -/
structure SetTable where
  records : List SetRec
  /-- Completion Order: set numbers, head first (R9) -/
  completion : List Nat
  /-- Reprint Queue: set numbers, first entry first (R10) -/
  reprint : List Nat
  profile : Profile
  profileLoaded : Bool
  deriving DecidableEq, Repr, Inhabited

/-! ### The Web Position Unit (chapter 2) -/

/-- The Web Position Unit (R23, R24, R27, R28). -/
structure WebUnit where
  /-- the web position P -/
  position : Pos
  /-- the speed sample w, 0 to 255 -/
  speed : Nat
  /-- the position kept at the previous speed update -/
  kept : Pos
  speedHigh : Bool
  reverse : Bool
  /-- µs to the next 4 ms speed update (R27) -/
  toUpdate : Nat
  deriving DecidableEq, Repr, Inhabited

/-- The station geometry (Table 2-3): seventeen values. -/
structure Geometry where
  readerToKnife : Nat
  readerToGate : Nat
  readerToAcc : Nat
  gateAdvance : Nat
  knifeLead : Nat
  gateLead : Nat
  knifeLateTol : Nat
  gateLateTol : Nat
  arrivalTol : Nat
  stopping : Nat
  jogInterval : Nat
  fullJog : Nat
  jogMargin : Nat
  foldTimeout : Nat
  actuatorTimeout : Nat
  beltTravel : Nat
  offerTimeout : Nat
  deriving DecidableEq, Repr, Inhabited

/-! ### The Mark Reader (chapter 3) -/

/-- The mark kinds (Table 3-2). -/
inductive MarkKind where
  | page
  | last
  | filler
  | banner
  deriving DecidableEq, Repr, Inhabited

/-- A decoded mark (R41). -/
structure Mark where
  kind : MarkKind
  tag : Nat
  page : Nat
  colour : Nat
  deriving DecidableEq, Repr, Inhabited

/-- A mark result (R43). -/
inductive MarkResult where
  | clean
  | corrected
  | unread
  deriving DecidableEq, Repr, Inhabited

/-- The unread causes (R43). -/
inductive UnreadCause where
  | missed
  | truncated
  | uncorrectable
  | badPage
  | strict
  deriving DecidableEq, Repr, Inhabited

/-- What a mark decoded to: the result, the decoded mark when present, the unread cause when present (R43). -/
structure Decoded where
  result : MarkResult
  mark : Option Mark
  cause : Option UnreadCause
  deriving DecidableEq, Repr, Inhabited

/-- A bar matched to a lane of the open row. -/
structure SeenBar where
  position : Pos
  decoded : Decoded
  deriving DecidableEq, Repr, Inhabited

/-- The row now open (R47). Its window or skew limit follows from `first`, the row reference and the profile. -/
structure OpenRow where
  /-- it is the first row after HUNT, which R50 governs -/
  first : Bool
  left : Option SeenBar
  right : Option SeenBar
  deriving DecidableEq, Repr, Inhabited

/-- The reader states (R47). -/
inductive ReaderState where
  | hunt
  | locked
  deriving DecidableEq, Repr, Inhabited

/-- The severities of the Mark Capture record, in order (R58, R59). -/
inductive Severity where
  | none
  | corrected
  | uncorrectable
  deriving DecidableEq, Repr, Inhabited

/-- The Mark Capture record (R58). -/
structure Capture where
  severity : Severity
  lane : Option Lane
  row : Option Pos
  syndrome : Option Nat
  parityOdd : Option Bool
  tag : Option Nat
  deriving DecidableEq, Repr, Inhabited

/-- The Mark Reader (R47, R58). -/
structure MarkReader where
  state : ReaderState
  openRow : Option OpenRow
  /-- the row reference -/
  rowRef : Option Pos
  /-- the miss count, 0 to 2 -/
  miss : Nat
  huntStart : Pos
  capture : Capture
  deriving DecidableEq, Repr, Inhabited

/-! ### The Tracking Engine (chapter 4) -/

/-- The merge order of a sheet in its row (R53). -/
inductive MergeOrder where
  | first
  | second
  deriving DecidableEq, Repr, Inhabited

/-- A sheet's route at the page gate; also the two gate positions (R64, R91). -/
inductive Disposition where
  | waste
  | accumulate
  deriving DecidableEq, Repr, Inhabited

/-- A sheet entry of the Transit List (Table 4-1). -/
structure SheetEntry where
  id : Nat
  row : Pos
  order : MergeOrder
  result : MarkResult
  mark : Option Mark
  set : Option Nat
  page : Option Nat
  disposition : Disposition
  gateArrival : Pos
  accArrival : Pos
  pastGate : Bool
  deriving DecidableEq, Repr, Inhabited

/-- The reading set reference (Table 4-2): set number, tag and job colour. -/
inductive ReadingRef where
  | none
  | reading (number tag colour : Nat)
  | faultedRun (number tag colour : Nat)
  deriving DecidableEq, Repr, Inhabited

/-- The Tracking Engine (R63, R65, R72, R73). -/
structure Tracking where
  /-- the Transit List, in reading order -/
  list : List SheetEntry
  nextId : Nat
  ref : ReadingRef
  orphanRun : Bool
  deriving DecidableEq, Repr, Inhabited

/-! ### The Firing Scheduler (chapter 5) -/

/-- The actuator of a firing and what the firing carries (Table 5-1). -/
inductive Actuator where
  /-- KNIFE, with the row position -/
  | knife (row : Pos)
  /-- GATE, with the sheet id and the gate setting -/
  | gate (sheet : Nat) (setting : Disposition)
  deriving DecidableEq, Repr, Inhabited

/-- A Firing Queue entry (Table 5-1). -/
structure Firing where
  actuator : Actuator
  target : Pos
  firePoint : Pos
  deriving DecidableEq, Repr, Inhabited

/-- The Firing Scheduler (R90, R91). The page gate output stands at `actual`. -/
structure Scheduler where
  queue : List Firing
  actual : Disposition
  planned : Disposition
  /-- the firing pulses the knife output has given (R92), counted by the model -/
  knifePulses : Nat
  deriving DecidableEq, Repr, Inhabited

/-! ### The Accumulator Controller (chapter 6) -/

/-- The accumulator states, in the order of Table 6-1. -/
inductive AccState where
  | empty
  | collecting
  | complete
  | releasing
  | dumping
  deriving DecidableEq, Repr, Inhabited

/-- The jog obligation (R121). -/
inductive Obligation where
  | clear
  | due
  | urgent
  | forced
  deriving DecidableEq, Repr, Inhabited

/-- A jog stroke in flight (R109, R112, R119). -/
structure Stroke where
  /-- a full stroke, else a short one -/
  full : Bool
  /-- a full stroke started while the accumulator was COMPLETE and held the set -/
  squaring : Bool
  /-- the JOG step's own stroke -/
  jogStep : Bool
  deriving DecidableEq, Repr, Inhabited

/-- The Accumulator Controller (R104, R119, R120, R113). The release is in flight while the state is RELEASING and
the dump while it is DUMPING. -/
structure Accumulator where
  state : AccState
  held : Option Nat
  others : List Nat
  unassigned : Nat
  sheets : Nat
  obligation : Obligation
  stroke : Option Stroke
  jogInterval : Timer
  holdTimer : Timer
  jogTimeout : Timer
  releaseTimeout : Timer
  dumpTimeout : Timer
  deriving DecidableEq, Repr, Inhabited

/-! ### The Folder Controller (chapter 7) -/

/-- The folder states, in the order of Table 7-1. -/
inductive FolderState where
  | idle
  | folding
  | faulted
  deriving DecidableEq, Repr, Inhabited

/-- A fold result (R134). -/
structure FoldResult where
  number : Nat
  pass : Bool
  deriving DecidableEq, Repr, Inhabited

/-- The last handed-over set, its freed mark and the fold kind of its hand-over (R127, R135). -/
structure HandedOver where
  number : Nat
  freed : Bool
  kind : FoldKind
  deriving DecidableEq, Repr, Inhabited

/-- The Folder Controller (R126, R134, R135). -/
structure Folder where
  state : FolderState
  set : Option Nat
  timer : Timer
  last : Option FoldResult
  previous : Option FoldResult
  handed : Option HandedOver
  deriving DecidableEq, Repr, Inhabited

/-! ### The Delivery Controller (chapter 8) -/

/-- The inserter's readiness (R145). -/
inductive Readiness where
  | ready
  | notReady
  deriving DecidableEq, Repr, Inhabited

/-- The Delivery Controller (R139, R140, R143, R145, R146). -/
structure Delivery where
  /-- the Belt Queue, head first -/
  queue : List Nat
  /-- the at-end mark of the head -/
  atEnd : Bool
  travel : Timer
  /-- the head's travel timer was stopped by a speed update that found w at 0 (R140) -/
  travelPaused : Bool
  /-- a belt gate stroke is wanted for the head and has not started (R143) -/
  strokeWanted : Bool
  /-- a belt gate stroke is in flight -/
  stroke : Bool
  gateTimeout : Timer
  readiness : Readiness
  offered : Option Nat
  offerTimer : Timer
  deriving DecidableEq, Repr, Inhabited

/-! ### The Line Supervisor (chapter 9) -/

/-- The line states (R152). -/
inductive LineState where
  | stopped
  | running
  | faulted
  deriving DecidableEq, Repr, Inhabited

/-- The hold causes, in the order of the table of R154. -/
inductive HoldCause where
  | accBlocked
  | trackFull
  | jogForced
  | readerHunting
  deriving DecidableEq, Repr, Inhabited

/-- The hold-cause set: which of the four causes stand in it (R154). -/
structure HoldSet where
  accBlocked : Bool
  trackFull : Bool
  jogForced : Bool
  readerHunting : Bool
  deriving DecidableEq, Repr, Inhabited

/-- The line fault causes, in the order of the table of R159. -/
inductive LineCause where
  | guardOpen
  | missedBurst
  | straySheet
  | missingSheet
  | accCollision
  | jamJogger
  | jamAccumulator
  | jamFolder
  | jamBelt
  | trackOverflow
  | unpermittedTravel
  | lineLinkLost
  | lineReset
  | powerLost
  | coldStart
  deriving DecidableEq, Repr, Inhabited

/-- The line fault record (R159). -/
structure FaultRecord where
  cause : Option LineCause
  set : Option Nat
  further : Bool
  deriving DecidableEq, Repr, Inhabited

/-- The Line Tally: ten counters (R167). -/
structure Tally where
  rowsRead : Nat
  sheetsTracked : Nat
  marksCorrected : Nat
  sheetsUnread : Nat
  lateFirings : Nat
  setsDelivered : Nat
  setsDiverted : Nat
  folds : Nat
  runTime : Nat
  holdTime : Nat
  deriving DecidableEq, Repr, Inhabited

/-- GUARD as read (R158). -/
inductive Guard where
  | closed
  | opened
  deriving DecidableEq, Repr, Inhabited

/-- The Line Supervisor (R32, R152 to R168). PERMIT and HOLD follow from it: see `State.permit`. -/
structure Supervisor where
  state : LineState
  holds : HoldSet
  record : FaultRecord
  stopPoint : Pos
  geometry : Geometry
  geometryLoaded : Bool
  tally : Tally
  /-- µs of run time not yet counted as a whole ms (R168) -/
  runFraction : Nat
  /-- µs of hold time not yet counted as a whole ms (R168) -/
  holdFraction : Nat
  guard : Guard
  /-- the cold-start sweep is running (R165) -/
  sweep : Bool
  deriving DecidableEq, Repr, Inhabited

/-! ### The Link Ports (chapter 10) -/

/-- The conditions of the three ports, in the order of Table 10-4. -/
inductive Cond where
  | unexpectedPages
  | setHeld
  | reprintReady
  | completionReady
  | jobLinkFault
  | lineFault
  | holdChanged
  | lockLost
  | capture
  | overspeed
  | lineLinkFault
  | offer
  | withdrawn
  | deliveryLinkFault
  deriving DecidableEq, Repr, Inhabited

/-- The reasons of an orphan, in the order of the table of R82. -/
inductive OrphanReason where
  | notFirst
  | unknown
  | wrongJob
  | cancelled
  | alreadyRun
  | unread
  deriving DecidableEq, Repr, Inhabited

/-- The parameter a pending condition holds (Table 10-4). The counts of REPRINT_READY and COMPLETION_READY are not
held: they are read when a frame is made. -/
inductive CondParam where
  | none
  | orphan (tag : Option Nat) (reason : OrphanReason)
  | setNumber (number : Nat)
  | lineCause (cause : LineCause)
  | holdSet (holds : HoldSet)
  | severity (severity : Severity)
  deriving DecidableEq, Repr, Inhabited

/-- A pending condition with its one parameter. -/
structure PendingCond where
  cond : Cond
  param : CondParam
  deriving DecidableEq, Repr, Inhabited

/-- A good frame in a request queue: its message kind, its body and its overrun mark (R174). -/
structure Request where
  kind : Byte
  body : List Byte
  overrun : Bool
  deriving DecidableEq, Repr, Inhabited

/-- A frame being received: the bytes after its sync byte so far, and the µs left of its 10 ms (R173). -/
structure RxFrame where
  bytes : List Byte
  timer : Nat
  deriving DecidableEq, Repr, Inhabited

/-- A frame produced for sending: its message kind (80h a reply, 81h a notice) and its body (R175, R177). -/
structure TxFrame where
  kind : Byte
  body : List Byte
  deriving DecidableEq, Repr, Inhabited

/-- The link states (R170). -/
inductive LinkState where
  | down
  | up
  deriving DecidableEq, Repr, Inhabited

/-- One port (R170 to R178). -/
structure PortState where
  link : LinkState
  /-- the request queue, head first -/
  queue : List Request
  rx : Option RxFrame
  /-- frames produced and not yet sent whole, in the order produced -/
  tx : List TxFrame
  /-- bytes of the first frame of `tx` already sent -/
  txSent : Nat
  /-- how far the byte now on the line has come, in units of 1/23,040 µs short of 1,000,000 (R170) -/
  txPhase : Nat
  /-- the pending conditions, highest priority first -/
  conds : List PendingCond
  deriving DecidableEq, Repr, Inhabited

/-- The three ports. -/
structure Links where
  job : PortState
  line : PortState
  delivery : PortState
  deriving DecidableEq, Repr, Inhabited

/-! ### The event under way (the model's own) -/

/-- The one re-derivation of the gate plan that R101 gives an event at which an open GUARD withheld a GATE entry. -/
inductive GuardPlan where
  /-- no GATE entry was withheld by an open GUARD -/
  | notAsked
  /-- one was, and the re-derivation is still to be made -/
  | asked
  /-- the re-derivation has been made, or is under way: its own withheld firings ask for no other -/
  | made
  deriving DecidableEq, Repr, Inhabited

/-- What the event under way has still to do when its own rule is done. It is empty between events. -/
structure Event where
  /-- conditions that became pending at this event and whose notices are not yet produced (R177) -/
  raised : List Cond
  /-- sets that became terminal at this event and have not yet joined the queues (R8) -/
  ended : List Nat
  /-- sheet ids of the entries made at this event (R88) -/
  made : List Nat
  /-- a re-derivation of the gate plan is asked for (R88, R100) -/
  replan : Bool
  /-- the re-derivation that follows a GATE entry withheld by an open GUARD (R101) -/
  guardPlan : GuardPlan
  /-- the dump conditions are to be examined (R117) -/
  dumpExam : Bool
  /-- a set became terminal or was freed: an AWAIT step may end (R114, R135) -/
  awaitExam : Bool
  deriving DecidableEq, Repr, Inhabited

/-- Nothing left to do. -/
def Event.none : Event :=
  { raised := [], ended := [], made := [], replan := false, guardPlan := .notAsked, dumpExam := false, awaitExam := false }

/-! ### The state -/

/-- The state of the part. -/
structure State where
  links : Links
  web : WebUnit
  reader : MarkReader
  table : SetTable
  track : Tracking
  firing : Scheduler
  acc : Accumulator
  folder : Folder
  belt : Delivery
  line : Supervisor
  /-- the event under way (the model's own) -/
  ev : Event
  /-- how many free orders have been drawn (the model's own: Config.order is applied to it) -/
  choices : Nat
  /-- the commands that are waiting, first in, first out -/
  pending : List Instr
  deriving DecidableEq, Repr, Inhabited

/-! ### The named updates of the state: one for each block -/

/-- s with its ports replaced. -/
def State.setLinks (s : State) (x : Links) : State := { s with links := x }
/-- s with its Web Position Unit replaced. -/
def State.setWeb (s : State) (x : WebUnit) : State := { s with web := x }
/-- s with its Mark Reader replaced. -/
def State.setReader (s : State) (x : MarkReader) : State := { s with reader := x }
/-- s with its Set Table replaced. -/
def State.setTable (s : State) (x : SetTable) : State := { s with table := x }
/-- s with its Tracking Engine replaced. -/
def State.setTrack (s : State) (x : Tracking) : State := { s with track := x }
/-- s with its Firing Scheduler replaced. -/
def State.setFiring (s : State) (x : Scheduler) : State := { s with firing := x }
/-- s with its Accumulator Controller replaced. -/
def State.setAcc (s : State) (x : Accumulator) : State := { s with acc := x }
/-- s with its Folder Controller replaced. -/
def State.setFolder (s : State) (x : Folder) : State := { s with folder := x }
/-- s with its Delivery Controller replaced. -/
def State.setBelt (s : State) (x : Delivery) : State := { s with belt := x }
/-- s with its Line Supervisor replaced. -/
def State.setLine (s : State) (x : Supervisor) : State := { s with line := x }
/-- s with the event under way replaced. -/
def State.setEv (s : State) (x : Event) : State := { s with ev := x }

/-! ### The values after a cold start -/

/-- The defaults of the station geometry (Table 2-3, R32). -/
def Geometry.default : Geometry :=
  { readerToKnife := 1850, readerToGate := 6400, readerToAcc := 7900, gateAdvance := 150, knifeLead := 3500,
    gateLead := 6000, knifeLateTol := 20, gateLateTol := 60, arrivalTol := 300, stopping := 4000,
    jogInterval := 400, fullJog := 40, jogMargin := 100, foldTimeout := 1500, actuatorTimeout := 500,
    beltTravel := 3000, offerTimeout := 5000 }

/-- The web profile held at cold start (Table 3-5, R44). -/
def Profile.cold : Profile :=
  { formLength := 1000, tol := 30, markOffset := 0, layout := .oneUp, order := .leftFirst, mergeOffset := 0,
    skew := 40, strict := false }

/-- The Mark Capture record with severity NONE (R61, R62). -/
def Capture.cleared : Capture :=
  { severity := .none, lane := none, row := none, syndrome := none, parityOdd := none, tag := none }

/-- The Line Tally at zero (R169). -/
def Tally.zero : Tally :=
  { rowsRead := 0, sheetsTracked := 0, marksCorrected := 0, sheetsUnread := 0, lateFirings := 0, setsDelivered := 0,
    setsDiverted := 0, folds := 0, runTime := 0, holdTime := 0 }

/-- The empty hold-cause set (R154). -/
def HoldSet.none : HoldSet :=
  { accBlocked := false, trackFull := false, jogForced := false, readerHunting := false }

/-- The empty line fault record (R159). -/
def FaultRecord.none : FaultRecord := { cause := Option.none, set := Option.none, further := false }

/-- A port as power-up leaves it, with the conditions given: link DOWN, nothing queued, nothing to send
(R164, R170). -/
def PortState.poweredUp (conds : List PendingCond) : PortState :=
  { link := .down, queue := [], rx := none, tx := [], txSent := 0, txPhase := 0, conds := conds }

/-- The accumulator after every reset (R125). -/
def Accumulator.empty : Accumulator :=
  { state := .empty, held := none, others := [], unassigned := 0, sheets := 0, obligation := .clear, stroke := none,
    jogInterval := none, holdTimer := none, jogTimeout := none, releaseTimeout := none, dumpTimeout := none }

/-- The Delivery Controller after every reset, with the readiness given (R151). -/
def Delivery.empty (r : Readiness) : Delivery :=
  { queue := [], atEnd := false, travel := none, travelPaused := false, strokeWanted := false, stroke := false,
    gateTimeout := none, readiness := r, offered := none, offerTimer := none }

/-- µs from one speed update to the next (R27). -/
def updatePeriod : Nat := 4000

/-- The part right after a cold-start power-up: RETAIN was not good, and the clearing sweep is running (R164, R165).
Each field is at the value its chapter gives for cold start. GUARD is an input that the part reads when the sweep
completes; until then it stands here as open (assumption 4). -/
def State.reset : State :=
  { links := { job := .poweredUp [], line := .poweredUp [], delivery := .poweredUp [] }
    web := { position := 0, speed := 0, kept := 0, speedHigh := false, reverse := false, toUpdate := updatePeriod }
    reader := { state := .hunt, openRow := none, rowRef := none, miss := 0, huntStart := 0,
                capture := Capture.cleared }
    table := { records := [], completion := [], reprint := [], profile := Profile.cold, profileLoaded := false }
    track := { list := [], nextId := 0, ref := .none, orphanRun := false }
    firing := { queue := [], actual := .waste, planned := .waste, knifePulses := 0 }
    acc := Accumulator.empty
    folder := { state := .idle, set := none, timer := none, last := none, previous := none, handed := none }
    belt := Delivery.empty .notReady
    line := { state := .faulted, holds := HoldSet.none,
              record := { cause := some .coldStart, set := none, further := false }, stopPoint := 0,
              geometry := Geometry.default, geometryLoaded := false, tally := Tally.zero, runFraction := 0,
              holdFraction := 0, guard := .opened, sweep := true }
    ev := Event.none
    choices := 0
    pending := [] }

end Sys2Proof.Machine
end

