-- ==== Sys2Proof/Machine/Frames.lean ====
section
/-! DEFINITION. The frame envelope and the layout of frame bodies (R172), and the codes of enumerated values: each is
numbered from 0 in the order in which its owning table lists its values. -/

namespace Sys2Proof.Machine

/-! ### The frame check -/

/-- One bit into the CRC register (R172). -/
def crcBit (reg : Crc) (bit : Bool) : Crc :=
  if reg.msb != bit then (reg <<< 1) ^^^ 0x1021#16 else reg <<< 1

/-- One byte into the CRC register, most significant bit first (R172). -/
def crcByte (reg : Crc) (b : Byte) : Crc :=
  [7, 6, 5, 4, 3, 2, 1, 0].foldl (fun r i => crcBit r (b.getLsbD i)) reg

/-- The CRC of the bytes given, from FFFFh (R172). -/
def crc (bytes : List Byte) : Crc := bytes.foldl crcByte 0xFFFF#16

/-! ### Fields -/

/-- A byte of the value n. -/
def byte (n : Nat) : Byte := BitVec.ofNat 8 n

/-- n in the given number of bytes, little-endian (R172). -/
def leBytes : Nat → Nat → List Byte
  | 0, _ => []
  | width + 1, n => byte n :: leBytes width (n / 256)

/-- The number that little-endian bytes carry (R172). -/
def leNat : List Byte → Nat
  | [] => 0
  | b :: rest => b.toNat + 256 * leNat rest

/-- A flag: no 0, yes 1. -/
def flagByte (b : Bool) : Byte := if b then 1 else 0

/-- An optional field: a presence byte, and the field's bytes when present (R172). -/
def optBytes {α : Type} (f : α → List Byte) : Option α → List Byte
  | none => [0]
  | some x => 1 :: f x

/-- A list: a count byte, then its elements (R172). -/
def listBytes {α : Type} (f : α → List Byte) (xs : List α) : List Byte := byte xs.length :: (xs.map f).flatten

/-! ### Envelope -/

/-- The sync byte (Table 10-1). -/
def syncByte : Byte := 0xA6#8

/-- The message kind of a reply (Table 10-1). -/
def replyKind : Byte := 0x80#8

/-- The message kind of a notice (Table 10-1). -/
def noticeKind : Byte := 0x81#8

/-- Bytes 1 to N+1 of a frame: the length, the message kind and the body. -/
def frameCore (f : TxFrame) : List Byte := byte (f.body.length + 1) :: f.kind :: f.body

/-- A whole frame as sent (Table 10-1). -/
def frameBytes (f : TxFrame) : List Byte :=
  syncByte :: (frameCore f ++ leBytes 2 (crc (frameCore f)).toNat)

/-! ### Codes of enumerated values -/

/-- Table 1-4. -/
def FoldKind.code : FoldKind → Nat
  | .none => 0
  | .half => 1
  | .letter => 2
  | .zed => 3
  | .double => 4

/-- Table 1-4. -/
def FoldKind.ofCode : Nat → Option FoldKind
  | 0 => some .none
  | 1 => some .half
  | 2 => some .letter
  | 3 => some .zed
  | 4 => some .double
  | _ => Option.none

/-- Table 1-4. -/
def Route.code : Route → Nat
  | .deliver => 0
  | .divert => 1

/-- Table 1-4. -/
def Route.ofCode : Nat → Option Route
  | 0 => some .deliver
  | 1 => some .divert
  | _ => none

/-- The order of Table 1-2 (R172). -/
def StepKind.code : StepKind → Nat
  | .jog => 0
  | .hold => 1
  | .await => 2
  | .fold => 3
  | .route => 4

/-- The order of Table 1-5 (R172). -/
def SetState.code : SetState → Nat
  | .pending => 0
  | .active => 1
  | .collected => 2
  | .held => 3
  | .waiting => 4
  | .folding => 5
  | .onBelt => 6
  | .offered => 7
  | .rejecting => 8
  | .delivered => 9
  | .diverted => 10
  | .cancelled => 11

/-- The order of Table 1-6 (R172). -/
def SetCause.code : SetCause → Nat
  | .outOfSequence => 0
  | .shortSet => 1
  | .missingLast => 2
  | .unreadPage => 3
  | .lostLock => 4
  | .missedFiring => 5
  | .missingSheet => 6
  | .accCollision => 7
  | .dumpCollision => 8
  | .holdExpired => 9
  | .foldJam => 10
  | .refused => 11
  | .offerExpired => 12
  | .routed => 13
  | .interrupted => 14
  | .purged => 15

/-- The order of the table of R159 (R172). -/
def LineCause.code : LineCause → Nat
  | .guardOpen => 0
  | .missedBurst => 1
  | .straySheet => 2
  | .missingSheet => 3
  | .accCollision => 4
  | .jamJogger => 5
  | .jamAccumulator => 6
  | .jamFolder => 7
  | .jamBelt => 8
  | .trackOverflow => 9
  | .unpermittedTravel => 10
  | .lineLinkLost => 11
  | .lineReset => 12
  | .powerLost => 13
  | .coldStart => 14

/-- The order of the table of R82 (R172). -/
def OrphanReason.code : OrphanReason → Nat
  | .notFirst => 0
  | .unknown => 1
  | .wrongJob => 2
  | .cancelled => 3
  | .alreadyRun => 4
  | .unread => 5

/-- The order of R58 (R172). -/
def Severity.code : Severity → Nat
  | .none => 0
  | .corrected => 1
  | .uncorrectable => 2

/-- The order of R58: LEFT or RIGHT (R172). -/
def laneCode : Lane → Nat
  | .left => 0
  | .right => 1

/-- The order of R152 (R172). -/
def LineState.code : LineState → Nat
  | .stopped => 0
  | .running => 1
  | .faulted => 2

/-- The order of R47 (R172). -/
def ReaderState.code : ReaderState → Nat
  | .hunt => 0
  | .locked => 1

/-- The order of Table 6-1 (R172). -/
def AccState.code : AccState → Nat
  | .empty => 0
  | .collecting => 1
  | .complete => 2
  | .releasing => 3
  | .dumping => 4

/-- The order of R121 (R172). -/
def Obligation.code : Obligation → Nat
  | .clear => 0
  | .due => 1
  | .urgent => 2
  | .forced => 3

/-- The order of Table 7-1 (R172). -/
def FolderState.code : FolderState → Nat
  | .idle => 0
  | .folding => 1
  | .faulted => 2

/-- PASS or FAIL, in the order of R134 (R172). -/
def outcomeCode (pass : Bool) : Nat := if pass then 0 else 1

/-- Closed or open, in the order of R158 (R172). -/
def Guard.code : Guard → Nat
  | .closed => 0
  | .opened => 1

/-- READY or NOT READY, in the order of R145 (R172). -/
def Readiness.code : Readiness → Nat
  | .ready => 0
  | .notReady => 1

/-- DOWN or UP, in the order of R170 (R172). -/
def LinkState.code : LinkState → Nat
  | .down => 0
  | .up => 1

/-- The hold-cause set in one byte: ACC_BLOCKED 1, TRACK_FULL 2, JOG_FORCED 4, READER_HUNTING 8, summed
(Table 10-4). -/
def HoldSet.code (h : HoldSet) : Nat :=
  (if h.accBlocked then 1 else 0) + (if h.trackFull then 2 else 0) + (if h.jogForced then 4 else 0)
    + (if h.readerHunting then 8 else 0)

/-! ### Result codes and request kinds -/

/-- The result codes of a reply (Table 10-3). -/
inductive Result where
  | done
  | doneClamped
  | none
  | busy
  | overrun
  | badField
  | notConfigured
  | tableFull
  | setExists
  | tagInUse
  | noSuchSet
  | wrongState
  | inMachine
  | notHeld
  | tooLate
  | wrongSet
  | notOffered
  | guardOpen
  | notAllowed
  | programInvalid
  deriving DecidableEq, Repr, Inhabited

/-- Table 10-3. -/
def Result.code : Result → Nat
  | .done => 0x00
  | .doneClamped => 0x01
  | .none => 0x02
  | .busy => 0x03
  | .overrun => 0x04
  | .badField => 0x05
  | .notConfigured => 0x06
  | .tableFull => 0x07
  | .setExists => 0x08
  | .tagInUse => 0x09
  | .noSuchSet => 0x0A
  | .wrongState => 0x0B
  | .inMachine => 0x0C
  | .notHeld => 0x0D
  | .tooLate => 0x0E
  | .wrongSet => 0x0F
  | .notOffered => 0x10
  | .guardOpen => 0x11
  | .notAllowed => 0x12
  | .programInvalid => 0x13

/-- The request kinds (Table 10-6). -/
inductive RequestKind where
  | loadProfile
  | loadSet
  | amendSet
  | cancelSet
  | releaseSet
  | querySet
  | takeCompletion
  | takeReprint
  | loadGeometry
  | start
  | stop
  | purge
  | resetLine
  | clearCapture
  | clearTally
  | setReady
  | setNotReady
  | accept
  | refuse
  | readStatus
  | readTally
  | readCapture
  | clearCondition
  deriving DecidableEq, Repr, Inhabited

/-- The message kind of a request (Table 10-6). -/
def RequestKind.code : RequestKind → Byte
  | .loadProfile => 0x01#8
  | .loadSet => 0x02#8
  | .amendSet => 0x03#8
  | .cancelSet => 0x04#8
  | .releaseSet => 0x05#8
  | .querySet => 0x06#8
  | .takeCompletion => 0x07#8
  | .takeReprint => 0x08#8
  | .loadGeometry => 0x09#8
  | .start => 0x0A#8
  | .stop => 0x0B#8
  | .purge => 0x0C#8
  | .resetLine => 0x0D#8
  | .clearCapture => 0x0E#8
  | .clearTally => 0x0F#8
  | .setReady => 0x10#8
  | .setNotReady => 0x11#8
  | .accept => 0x12#8
  | .refuse => 0x13#8
  | .readStatus => 0x14#8
  | .readTally => 0x15#8
  | .readCapture => 0x16#8
  | .clearCondition => 0x17#8

/-- Every request kind, in the order of Table 10-6. -/
def RequestKind.every : List RequestKind :=
  [.loadProfile, .loadSet, .amendSet, .cancelSet, .releaseSet, .querySet, .takeCompletion, .takeReprint, .loadGeometry,
   .start, .stop, .purge, .resetLine, .clearCapture, .clearTally, .setReady, .setNotReady, .accept, .refuse, .readStatus,
   .readTally, .readCapture, .clearCondition]

/-- Whether port p takes requests of a kind (Table 10-6). -/
def RequestKind.allowedOn (k : RequestKind) (p : Port) : Bool :=
  match k with
  | .loadProfile | .loadSet | .amendSet | .cancelSet | .releaseSet | .querySet | .takeCompletion | .takeReprint =>
    p == .job
  | .loadGeometry | .start | .stop | .purge | .resetLine | .clearCapture | .clearTally => p == .line
  | .setReady | .setNotReady | .accept | .refuse => p == .delivery
  | .readStatus | .readTally | .readCapture | .clearCondition => true

/-- The request kind that a message kind is on port p, if it is one (Table 10-6, R175 step 2). -/
def requestKindOn (p : Port) (kind : Byte) : Option RequestKind :=
  RequestKind.every.find? fun k => k.code == kind && k.allowedOn p

end Sys2Proof.Machine
end

