-- ==== Sys2Proof/Config.lean ====
section
/-! DEFINITION. The values the spec leaves open: constants with no body, so that no proof can see what they are. -/

namespace Sys2Proof.Config

/-- The order in which events that fall at one moment are taken, where the spec gives none ("Events, operations and
timers"; R29; R174): applied to the running number of the draw (`State.choices`). Assumption 7. -/
opaque order : Nat → Nat

/-- The code that names the priority in the list of clamped fields of a set request's reply (R11, R13): the spec names
the field and gives it no code. Assumption 20. -/
opaque clampedPriorityCode : Byte

/-- The code that names the HOLD timeout in that list. Assumption 20. -/
opaque clampedHoldCode : Byte

/-- The blocks' state as the clearing sweep has left it so far, which READ STATUS shows while the sweep runs (R180):
the spec does not say how far the sweep has come at a given moment. Applied to the running number of the draw.
Assumption 6. -/
opaque sweepView : Nat → Machine.State

end Sys2Proof.Config
end

