-- ==== Sys2Proof/Machine/Position.lean ====
section
/-! DEFINITION. Web position and firing arithmetic (chapter 2), and the free order of events at one moment. -/

namespace Sys2Proof.Machine

/-- Signed distance from a to b (Conventions, R25): the difference modulo 2 to the power 24, read from −8,388,608 to
8,388,607. -/
def signedDist (a b : Pos) : Int := (b - a).toInt

/-- b is ahead of p (R25). -/
def ahead (p b : Pos) : Bool := decide (0 < signedDist p b)

/-- p has reached b (R25). -/
def reached (p b : Pos) : Bool := decide (signedDist p b ≤ 0)

/-- p has passed b (R25). -/
def passed (p b : Pos) : Bool := decide (0 < signedDist b p)

/-- p lies within ±d of b (R25). -/
def within (d : Nat) (p b : Pos) : Bool := decide (-(d : Int) ≤ signedDist b p ∧ signedDist b p ≤ d)

/-- The position n counts beyond x (R25). -/
def plus (x : Pos) (n : Nat) : Pos := x + BitVec.ofNat 24 n

/-- The position n counts before x (R25). -/
def minus (x : Pos) (n : Nat) : Pos := x - BitVec.ofNat 24 n

/-- One encoder step (R23). -/
def stepPosition (d : Direction) (p : Pos) : Pos :=
  match d with
  | .forward => p + 1
  | .backward => p - 1

/-- The lead of a lead time l, in µs, at speed sample w (R30). -/
def lead (l w : Nat) : Nat := (l * w + 2000) / 4000

/-- The clearance of a stroke time t, in µs, at speed sample w with a jog margin (R31). -/
def clearance (t w margin : Nat) : Nat := (t * w + 3999) / 4000 + margin

/-- The short jog time, in ms (R31). -/
def Geometry.shortJog (g : Geometry) : Nat := g.fullJog / 2

/-- clearance(full) at the present w (R31). -/
def clearanceFull (s : State) : Nat :=
  clearance (s.line.geometry.fullJog * 1000) s.web.speed s.line.geometry.jogMargin

/-- clearance(short) at the present w (R31). -/
def clearanceShort (s : State) : Nat :=
  clearance (s.line.geometry.shortJog * 1000) s.web.speed s.line.geometry.jogMargin

/-- ms as µs, the unit of the model's timers. -/
def msTimer (ms : Nat) : Timer := some (ms * 1000)

/-- The raw speed at a speed update (R27). -/
def rawSpeed (web : WebUnit) : Int := signedDist web.kept web.position

/-- The speed sample of a raw speed (R27). -/
def speedOf (raw : Int) : Nat := if raw < 0 then 0 else if raw > 255 then 255 else raw.toNat

/-- The Web Position Unit's own part of a speed update (R27): the next one follows 4 ms later. -/
def updateSpeed (web : WebUnit) : WebUnit :=
  { web with
    toUpdate := updatePeriod
    speed := speedOf (rawSpeed web)
    kept := web.position
    reverse := web.reverse || decide (rawSpeed web < 0)
    speedHigh := web.speedHigh || decide (rawSpeed web > 255) }

/-- The knife target of a row with row position e (R36). -/
def knifeTarget (s : State) (e : Pos) : Pos :=
  plus (plus e s.table.profile.formLength) s.line.geometry.readerToKnife

/-- The row position moved by the merge offset for a SECOND sheet (R37). -/
def mergePosition (s : State) (e : Pos) (order : MergeOrder) : Pos :=
  match order with
  | .first => e
  | .second => plus e s.table.profile.mergeOffset

/-- The gate arrival of a sheet (R37). -/
def gateArrivalOf (s : State) (e : Pos) (order : MergeOrder) : Pos :=
  plus (mergePosition s e order) s.line.geometry.readerToGate

/-- The accumulator arrival of a sheet (R37). -/
def accArrivalOf (s : State) (e : Pos) (order : MergeOrder) : Pos :=
  plus (mergePosition s e order) s.line.geometry.readerToAcc

/-- The gate target of a sheet (R37), from the geometry and profile in force. -/
def gateTarget (s : State) (x : SheetEntry) : Pos :=
  minus (gateArrivalOf s x.row x.order) s.line.geometry.gateAdvance

/-- The lead time of an actuator (R30). -/
def leadTime (s : State) : Actuator → Nat
  | .knife _ => s.line.geometry.knifeLead
  | .gate _ _ => s.line.geometry.gateLead

/-- The late tolerance of an actuator (R98). -/
def lateTol (s : State) : Actuator → Nat
  | .knife _ => s.line.geometry.knifeLateTol
  | .gate _ _ => s.line.geometry.gateLateTol

/-- The fire point of a target for an actuator at the present w (R38). -/
def firePointOf (s : State) (a : Actuator) (target : Pos) : Pos :=
  minus target (lead (leadTime s a) s.web.speed)

/-- xs in the order that the number n picks, one of all its orders; a list of at most one element does not depend on
n. -/
def arrangeFuel {α : Type} : Nat → Nat → List α → List α
  | 0, _, xs => xs
  | _ + 1, _, [] => []
  | _ + 1, _, [x] => [x]
  | fuel + 1, n, x :: y :: rest =>
    let xs := x :: y :: rest
    let k := n % xs.length
    match xs.drop k with
    | [] => xs
    | z :: after => z :: arrangeFuel fuel (n / xs.length) (xs.take k ++ after)

/-- The elements of xs in a free order (assumption 7). -/
def arrange {α : Type} (s : State) (xs : List α) : List α := arrangeFuel xs.length (Config.order s.choices) xs

/-- s with one free order drawn. -/
def State.drawn (s : State) : State := { s with choices := s.choices + 1 }

end Sys2Proof.Machine
end

