-- ==== Sys2Proof/Machine/Flags.lean ====
section
/-! DEFINITION. The part's status and interrupt flags: pending conditions and their notices (section 10.5), the
hold-cause set (R154), the line fault record (R159), the two output lines (R153) and the Line Tally (R167). -/

namespace Sys2Proof.Machine

/-! ### The ports -/

/-- The state of port p. -/
def Links.get (l : Links) : Port → PortState
  | .job => l.job
  | .line => l.line
  | .delivery => l.delivery

/-- The ports with port p replaced. -/
def Links.put (l : Links) (p : Port) (x : PortState) : Links :=
  match p with
  | .job => { l with job := x }
  | .line => { l with line := x }
  | .delivery => { l with delivery := x }

/-- Port p of s. -/
def State.port (s : State) (p : Port) : PortState := s.links.get p

/-- s with port p replaced. -/
def State.setPort (s : State) (p : Port) (x : PortState) : State := s.setLinks (s.links.put p x)

/-! ### Conditions (Table 10-4) -/

/-- The port of a condition. -/
def Cond.port : Cond → Port
  | .unexpectedPages | .setHeld | .reprintReady | .completionReady | .jobLinkFault => .job
  | .lineFault | .holdChanged | .lockLost | .capture | .overspeed | .lineLinkFault => .line
  | .offer | .withdrawn | .deliveryLinkFault => .delivery

/-- The code of a condition; within a port a lower code is a higher priority. -/
def Cond.code : Cond → Nat
  | .unexpectedPages => 0x01
  | .setHeld => 0x02
  | .reprintReady => 0x03
  | .completionReady => 0x04
  | .jobLinkFault => 0x05
  | .lineFault => 0x11
  | .holdChanged => 0x12
  | .lockLost => 0x13
  | .capture => 0x14
  | .overspeed => 0x15
  | .lineLinkFault => 0x16
  | .offer => 0x21
  | .withdrawn => 0x22
  | .deliveryLinkFault => 0x23

/-- Every condition, in the order of Table 10-4. -/
def Cond.every : List Cond :=
  [.unexpectedPages, .setHeld, .reprintReady, .completionReady, .jobLinkFault, .lineFault, .holdChanged, .lockLost,
   .capture, .overspeed, .lineLinkFault, .offer, .withdrawn, .deliveryLinkFault]

/-- The condition of port p with a code, if there is one (R179). -/
def Cond.ofCode (p : Port) (code : Nat) : Option Cond := Cond.every.find? fun c => c.port == p && c.code == code

/-- The LINK_FAULT of a port. -/
def linkFaultOf : Port → Cond
  | .job => .jobLinkFault
  | .line => .lineLinkFault
  | .delivery => .deliveryLinkFault

/-- Whether a condition is pending (section 10.5). -/
def State.isPending (s : State) (c : Cond) : Bool := (s.port c.port).conds.any fun x => x.cond == c

/-- A pending condition put in its place by priority. -/
def insertCond (x : PendingCond) : List PendingCond → List PendingCond
  | [] => [x]
  | y :: rest => if x.cond.code < y.cond.code then x :: y :: rest else y :: insertCond x rest

/-- A block raises condition c with a parameter (R178): it becomes pending, and a notice is due at the end of the
event; when it is pending already its parameter is replaced and no notice is due. -/
def raiseCond (c : Cond) (param : CondParam) (s : State) : State :=
  let ps := s.port c.port
  if s.isPending c then
    s.setPort c.port
      { ps with conds := ps.conds.map fun x => if x.cond = c then { x with param := param } else x }
  else
    (s.setPort c.port { ps with conds := insertCond { cond := c, param := param } ps.conds }).setEv
      { s.ev with raised := s.ev.raised ++ [c] }

/-- Condition c is removed from its port's pending conditions (R178). -/
def removeCond (c : Cond) (s : State) : State :=
  let ps := s.port c.port
  s.setPort c.port { ps with conds := ps.conds.filter fun x => x.cond ≠ c }

/-- The five parameter bytes of a pending condition (Table 10-4): the two counts are read as they stand. -/
def paramBytes (s : State) (x : PendingCond) : List Byte :=
  match x.cond, x.param with
  | .reprintReady, _ => byte s.table.reprint.length :: leBytes 4 0
  | .completionReady, _ => byte s.table.completion.length :: leBytes 4 0
  | _, .none => leBytes 5 0
  | _, .orphan tag reason => leBytes 2 (tag.getD 0xFFFF) ++ byte reason.code :: leBytes 2 0
  | _, .setNumber n => leBytes 5 n
  | _, .lineCause c => byte c.code :: leBytes 4 0
  | _, .holdSet h => byte h.code :: leBytes 4 0
  | _, .severity v => byte v.code :: leBytes 4 0

/-- A pending condition's code and parameter, 6 bytes (R177, R180). -/
def condBytes (s : State) (x : PendingCond) : List Byte := byte x.cond.code :: paramBytes s x

/-- The top condition of port p and its parameter, or zeros when none is pending (Table 10-2, R178). -/
def topBytes (s : State) (p : Port) : List Byte :=
  match (s.port p).conds with
  | [] => leBytes 6 0
  | x :: _ => condBytes s x

/-- A frame produced for sending on port p (R177); a port whose link is DOWN sends nothing (R170). -/
def produce (p : Port) (f : TxFrame) (s : State) : State :=
  match (s.port p).link with
  | .down => s
  | .up => s.setPort p { s.port p with tx := (s.port p).tx ++ [f] }

/-- The notice of a pending condition (R177). -/
def noticeOf (s : State) (p : Port) (x : PendingCond) : TxFrame :=
  { kind := noticeKind, body := condBytes s x ++ topBytes s p }

/-- The notices of some of port p's pending conditions, highest priority first: those that `which` picks. Nothing is
produced while the link is DOWN (R170, R178). -/
def sendNotices (p : Port) (which : Cond → Bool) (s : State) : State :=
  match (s.port p).link with
  | .down => s
  | .up =>
    s.setPort p
      { s.port p with
        tx := (s.port p).tx ++ ((s.port p).conds.filter fun x => which x.cond).map (noticeOf s p) }

/-- The notices of the conditions that became pending at the event under way (R177). They are made at the event's end, so
a notice carries the parameter as the event leaves it: where one row event begins two orphan runs (R82), the one notice
carries the second's (DEDUCED, assumption 34). -/
def flushNotices (s : State) : State :=
  let due := fun c => decide (c ∈ s.ev.raised)
  (sendNotices .delivery due (sendNotices .line due (sendNotices .job due s))).setEv { s.ev with raised := [] }

/-! ### The hold-cause set -/

/-- Whether a cause stands in the hold-cause set. -/
def HoldSet.has (h : HoldSet) : HoldCause → Bool
  | .accBlocked => h.accBlocked
  | .trackFull => h.trackFull
  | .jogForced => h.jogForced
  | .readerHunting => h.readerHunting

/-- The set with a cause in it or out of it. -/
def HoldSet.put (h : HoldSet) (c : HoldCause) (b : Bool) : HoldSet :=
  match c with
  | .accBlocked => { h with accBlocked := b }
  | .trackFull => { h with trackFull := b }
  | .jogForced => { h with jogForced := b }
  | .readerHunting => { h with readerHunting := b }

/-- A block asserts (b yes) or removes (b no) a hold cause (R154): a change made while the line is RUNNING makes
HOLD_CHANGED pending with the set as it then stands. At an event that faults a RUNNING line, a change made before the
fault is taken so raises it, and one made after does not (DEDUCED, assumption 36). -/
def setHold (c : HoldCause) (b : Bool) (s : State) : State :=
  if s.line.holds.has c = b then s
  else
    let s' := s.setLine { s.line with holds := s.line.holds.put c b }
    match s.line.state with
    | .running => raiseCond .holdChanged (.holdSet s'.line.holds) s'
    | .stopped | .faulted => s'

/-! ### The output lines and actuator outputs -/

/-- PERMIT (R153). -/
def State.permit (s : State) : Bool := decide (s.line.state = .running)

/-- HOLD (R153). -/
def State.holdLine (s : State) : Bool := decide (s.line.state = .running) && decide (s.line.holds ≠ HoldSet.none)

/-- The jogger output: held from a stroke's start to its jog done or its abandonment (R119, R125). -/
def State.joggerOutput (s : State) : Bool := s.acc.stroke.isSome

/-- The release output: held from hand-over to folder entry or abandonment (R115, R116, R125). -/
def State.releaseOutput (s : State) : Bool := decide (s.acc.state = .releasing)

/-- The dump output: held from the dump's start to dump done or abandonment (R117, R118, R125). -/
def State.dumpOutput (s : State) : Bool := decide (s.acc.state = .dumping)

/-- The belt gate output: held from the stroke's start to gate done or abandonment (R143, R144, R151). -/
def State.beltGateOutput (s : State) : Bool := s.belt.stroke

/-- The page gate output (R91). -/
def State.pageGateOutput (s : State) : Disposition := s.firing.actual

/-- Whether a station operation is in flight: a jog stroke, a release, a fold, a dump or a belt gate stroke
(R161). -/
def State.stationBusy (s : State) : Bool :=
  s.acc.stroke.isSome || decide (s.acc.state = .releasing) || decide (s.folder.state = .folding)
    || decide (s.acc.state = .dumping) || s.belt.stroke

/-! ### Line faults -/

/-- The Line Supervisor takes a line fault with an optional set number (R159). -/
def lineFault (c : LineCause) (set : Option Nat) (s : State) : State :=
  match s.line.state with
  | .faulted => s.setLine { s.line with record := { s.line.record with further := true } }
  | .running =>
    raiseCond .lineFault (.lineCause c) (s.setLine
      { s.line with
        state := .faulted
        record := { cause := some c, set := set, further := false }
        stopPoint := s.web.position })
  | .stopped =>
    raiseCond .lineFault (.lineCause c) (s.setLine
      { s.line with
        state := .faulted
        record := { cause := some c, set := set, further := false } })

/-! ### The Line Tally -/

/-- The largest count (R167). -/
def tallyMax : Nat := 4294967295

/-- A counter raised by 1, staying at its largest count (R167). -/
def satInc (n : Nat) : Nat := if n < tallyMax then n + 1 else n

/-- The tally with a counter changed. -/
def State.withTally (s : State) (f : Tally → Tally) : State := s.setLine { s.line with tally := f s.line.tally }

/-- A row emitted (R55). -/
def Tally.row (t : Tally) : Tally := { t with rowsRead := satInc t.rowsRead }
/-- An entry made (R66). -/
def Tally.tracked (t : Tally) : Tally := { t with sheetsTracked := satInc t.sheetsTracked }
/-- A CORRECTED sheet (R55). -/
def Tally.corrected (t : Tally) : Tally := { t with marksCorrected := satInc t.marksCorrected }
/-- An UNREAD sheet (R55). -/
def Tally.unread (t : Tally) : Tally := { t with sheetsUnread := satInc t.sheetsUnread }
/-- A late firing (R98). -/
def Tally.late (t : Tally) : Tally := { t with lateFirings := satInc t.lateFirings }
/-- A set DELIVERED (R147). -/
def Tally.delivered (t : Tally) : Tally := { t with setsDelivered := satInc t.setsDelivered }
/-- A set DIVERTED (R7, R162). -/
def Tally.diverted (t : Tally) : Tally := { t with setsDiverted := satInc t.setsDiverted }
/-- A fold ended PASS (R131). -/
def Tally.folded (t : Tally) : Tally := { t with folds := satInc t.folds }
/-- One ms of run time (R168). -/
def Tally.ran (t : Tally) : Tally := { t with runTime := satInc t.runTime }
/-- One ms of hold time (R168). -/
def Tally.held (t : Tally) : Tally := { t with holdTime := satInc t.holdTime }

end Sys2Proof.Machine
end

