-- ==== Sys2Proof/Machine/Ops.lean ====
section
/-! DEFINITION. The shared operations on set records, the Transit List and the two outcome queues: recording a fault
cause (R6), the turn to waste (R85), the test of R7, becoming terminal (R8), joining the queues (R9, R10), freeing
(R19). -/

namespace Sys2Proof.Machine

/-! ### Set records -/

/-- The tag of a set (Table 1-1). -/
def SetRec.tag (r : SetRec) : Nat := r.number % 16384

/-- The job colour of a set (Table 1-1). -/
def SetRec.colour (r : SetRec) : Nat := r.jobId % 4

/-- The kind of a step. -/
def Step.kind : Step → StepKind
  | .jog => .jog
  | .hold _ => .hold
  | .await => .await
  | .fold _ => .fold
  | .route _ => .route

/-- Whether a step is carried out at the accumulator (Table 1-2). -/
def StepKind.atAccumulator : StepKind → Bool
  | .jog | .hold | .await => true
  | .fold | .route => false

/-- The program index of the first step of a kind, from 1. -/
def stepIndex (k : StepKind) (program : List Step) : Option Nat :=
  (program.findIdx? fun x => x.kind == k).map (· + 1)

/-- The fold kind of a program: NONE when it has no FOLD step (R3, R127). -/
def foldKindOf : List Step → FoldKind
  | [] => .none
  | .fold k :: _ => k
  | _ :: rest => foldKindOf rest

/-- Whether a program's ROUTE step is DIVERT (R142). -/
def routesDivert (program : List Step) : Bool := program.any fun x => x == .route .divert

/-- The index of the FOLD step, or of the ROUTE step when the program has no FOLD step (Table 1-6, FOLD_JAM). -/
def foldFailIndex (program : List Step) : Option Nat :=
  match stepIndex .fold program with
  | some i => some i
  | none => stepIndex .route program

/-- DELIVERED, DIVERTED and CANCELLED are the terminal states (R8). -/
def SetState.terminal : SetState → Bool
  | .delivered | .diverted | .cancelled => true
  | _ => false

/-- ACTIVE to OFFERED: the states in which a cause makes a set REJECTING (R6). -/
def SetState.mayFail : SetState → Bool
  | .active | .collected | .held | .waiting | .folding | .onBelt | .offered => true
  | _ => false

/-- ACTIVE through REJECTING: a set in the machine (R22, R33, R45). -/
def SetState.inMachine (x : SetState) : Bool := x.mayFail || x == .rejecting

/-- The record with a set number, if the table holds one. -/
def State.findSet (s : State) (n : Nat) : Option SetRec := s.table.records.find? fun r => r.number == n

/-- The state of the set with a number, if the table holds it. -/
def State.setState (s : State) (n : Nat) : Option SetState := (s.findSet n).map SetRec.state

/-- Whether the table holds a record of set n that is not in a terminal state. -/
def State.unended (s : State) (n : Nat) : Bool :=
  match s.setState n with
  | none => false
  | some x => !x.terminal

/-- The record of set n changed by f. -/
def updateSet (n : Nat) (f : SetRec → SetRec) (s : State) : State :=
  s.setTable { s.table with records := s.table.records.map fun r => if r.number = n then f r else r }

/-- A record put in a state; a terminal set keeps its state until its record is freed (R8). -/
def SetRec.put (x : SetState) (r : SetRec) : SetRec := if r.state.terminal then r else { r with state := x }

/-- Set n put in a state. -/
def putSetState (n : Nat) (x : SetState) (s : State) : State := updateSet n (SetRec.put x) s

/-! ### The Transit List -/

/-- The entry with a sheet id. -/
def State.findSheet (s : State) (id : Nat) : Option SheetEntry := s.track.list.find? fun e => e.id == id

/-- The Transit List replaced. -/
def State.setList (s : State) (l : List SheetEntry) : State := s.setTrack { s.track with list := l }

/-- The entry with a sheet id changed by f. -/
def updateSheet (id : Nat) (f : SheetEntry → SheetEntry) (s : State) : State :=
  s.setList (s.track.list.map fun e => if e.id = id then f e else e)

/-- The oldest ACCUMULATE entry (R105). -/
def State.oldestAccumulate (s : State) : Option SheetEntry :=
  s.track.list.find? fun e => e.disposition == .accumulate

/-- TRACK_FULL is asserted at 44 entries and removed at 40 or fewer (R69). -/
def evalTrackFull (s : State) : State :=
  if 44 ≤ s.track.list.length then setHold .trackFull true s
  else if s.track.list.length ≤ 40 then setHold .trackFull false s
  else s

/-- The entry with a sheet id leaves the list (R68, R105, R110). -/
def removeSheet (id : Nat) (s : State) : State := s.setList (s.track.list.filter fun e => e.id ≠ id)

/-! ### The holdings of a set and its end -/

/-- Whether set n is held anywhere in the machine: by a Transit List entry, the accumulator, the folder or the Belt
Queue (R7). -/
def holdsSet (s : State) (n : Nat) : Bool :=
  (s.track.list.any fun e => e.set == some n) || s.acc.held == some n || decide (n ∈ s.acc.others)
    || s.folder.set == some n || decide (n ∈ s.belt.queue)

/-- A tally rise for a set entering a terminal state: sets delivered and sets diverted are counted (R167). -/
def Tally.ended (x : SetState) (t : Tally) : Tally :=
  match x with
  | .delivered => t.delivered
  | .diverted => t.diverted
  | _ => t

/-- The entries that named set n lose it (R86). -/
def detachSheets (n : Nat) (s : State) : State :=
  s.setList (s.track.list.map fun e => if e.set = some n then { e with set := none } else e)

/-- Set n became terminal at the event under way, so that an AWAIT step may end (R8, R135). -/
def State.askEnded (s : State) (n : Nat) : State :=
  s.setEv { s.ev with ended := s.ev.ended ++ [n], awaitExam := true }

/-- The dump conditions are to be examined at the end of the event (R117). -/
def State.askDump (s : State) : State := s.setEv { s.ev with dumpExam := true }

/-- A re-derivation of the gate plan is asked for (R88, R100). -/
def State.askPlan (s : State) : State := s.setEv { s.ev with replan := true }

/-- A GATE entry withheld by an open GUARD asks for the one re-derivation of R101. -/
def GuardPlan.ask : GuardPlan → GuardPlan
  | .notAsked => .asked
  | .asked => .asked
  | .made => .made

/-- The event under way is to be followed by the one re-derivation of R101. -/
def State.askGuardPlan (s : State) : State := s.setEv { s.ev with guardPlan := s.ev.guardPlan.ask }

/-- The end of an AWAIT step is to be examined (R135). -/
def State.askAwait (s : State) : State := s.setEv { s.ev with awaitExam := true }

/-- Set n enters terminal state x (R8): it joins the Completion Order and, by its cause, the Reprint Queue at the end
of the event; the entries that named it lose it (R86). A set that is terminal already, or has no record, has no end to
come to. -/
def makeTerminal (n : Nat) (x : SetState) (s : State) : State :=
  if s.unended n then (detachSheets n ((putSetState n x s).withTally (Tally.ended x))).askEnded n else s

/-- The test of R7: a REJECTING set that nothing in the machine holds becomes DIVERTED. -/
def testDiverted (n : Nat) (s : State) : State :=
  if s.setState n = some .rejecting ∧ holdsSet s n = false then makeTerminal n .diverted s else s

/-- An entry that the turn to waste of set n changes (R85). -/
def turns (n : Nat) (e : SheetEntry) : Bool := e.set == some n && !e.pastGate && e.disposition == .accumulate

/-- Whether the turn to waste of set n changes an entry that stood in the list before the event (R88). -/
def turnsEarlier (n : Nat) (s : State) : Bool := s.track.list.any fun e => turns n e && !(s.ev.made.contains e.id)

/-- Every ACCUMULATE entry of set n that is not past the gate becomes WASTE (R85). -/
def wasteSheets (n : Nat) (s : State) : State :=
  s.setList (s.track.list.map fun e => if turns n e then { e with disposition := .waste } else e)

/-- The turn to waste (R85). A re-derivation of the gate plan is asked for when an entry changed that stood in the list
before the event (R88). -/
def turnToWaste (n : Nat) (s : State) : State :=
  if turnsEarlier n s then (wasteSheets n s).askPlan else wasteSheets n s

/-- A hold timer running for set n stops (R6, R124). -/
def stopHoldOf (n : Nat) (s : State) : State :=
  if s.acc.held = some n then s.setAcc { s.acc with holdTimer := none } else s

/-- A reading set reference that names set n passes from READING to FAULTED_RUN (R84). -/
def faultRef (n : Nat) : ReadingRef → ReadingRef
  | .reading m tag colour => if m = n then .faultedRun m tag colour else .reading m tag colour
  | r => r

/-- The reading set reference follows the fault of set n (R84). -/
def followRef (n : Nat) (s : State) : State := s.setTrack { s.track with ref := faultRef n s.track.ref }

/-- A record that a cause reaches (R6): in ACTIVE to OFFERED with no cause. -/
def SetRec.open (r : SetRec) : Bool := r.state.mayFail && r.cause.isNone

/-- A record that takes a cause becomes REJECTING (R6). -/
def SetRec.fail (c : SetCause) (step : Option Nat) (r : SetRec) : SetRec :=
  if r.open then { r with state := .rejecting, cause := some c, failingStep := step } else r

/-- A block records a fault cause against set n, with the failing step where Table 1-6 gives one (R6). A set of ACTIVE
to OFFERED with no cause becomes REJECTING: a hold timer running for it stops (R6, R124), the reading set reference
follows (R84), its sheets not past the gate turn to waste (R85), the dump conditions are to be examined (R117), and a
set that holds nothing becomes DIVERTED at once (R7). In every other case the cause is discarded. -/
def recordCause (n : Nat) (c : SetCause) (step : Option Nat) (s : State) : State :=
  match s.findSet n with
  | none => s
  | some r =>
    if r.open then
      testDiverted n (turnToWaste n (followRef n (stopHoldOf n (updateSet n (SetRec.fail c step) s)))).askDump
    else s

/-- A cause recorded against a set that may be absent. -/
def recordCauseOpt (n : Option Nat) (c : SetCause) (s : State) : State :=
  match n with
  | none => s
  | some n => recordCause n c none s

/-- The test of R7 for a set that may be absent. -/
def testDivertedOpt (n : Option Nat) (s : State) : State :=
  match n with
  | none => s
  | some n => testDiverted n s

/-! ### The Completion Order and the Reprint Queue -/

/-- A number put in its place in an ascending list. -/
def insertAscending (n : Nat) : List Nat → List Nat
  | [] => [n]
  | m :: rest => if n ≤ m then n :: m :: rest else m :: insertAscending n rest

/-- A list of numbers in ascending order. -/
def ascending (xs : List Nat) : List Nat := xs.foldr insertAscending []

/-- The priority of set n, 0 when no record holds it. -/
def priorityOf (s : State) (n : Nat) : Nat :=
  match s.findSet n with
  | some r => r.priority
  | none => 0

/-- The Reprint Queue with set n placed behind every entry of equal or higher priority and ahead of every entry of
lower priority (R10). -/
def placeReprint (s : State) (n : Nat) (queue : List Nat) : List Nat :=
  (queue.takeWhile fun m => decide (priorityOf s n ≤ priorityOf s m)) ++ n ::
    (queue.dropWhile fun m => decide (priorityOf s n ≤ priorityOf s m))

/-- Set n joins the Completion Order (R9): COMPLETION_READY becomes pending when the list was empty. -/
def joinCompletion (n : Nat) (s : State) : State :=
  let s' := s.setTable { s.table with completion := s.table.completion ++ [n] }
  if s.table.completion.isEmpty then raiseCond .completionReady .none s' else s'

/-- Set n joins the Reprint Queue (R10): REPRINT_READY becomes pending when the queue was empty. -/
def joinReprint (n : Nat) (s : State) : State :=
  let s' := s.setTable { s.table with reprint := placeReprint s n s.table.reprint }
  if s.table.reprint.isEmpty then raiseCond .reprintReady .none s' else s'

/-- Whether a record joins the Reprint Queue: it is DIVERTED with a cause other than ROUTED (R8, R10). -/
def SetRec.reprints (r : SetRec) : Bool := r.state == .diverted && r.cause != some .routed

/-- Set n joins the Reprint Queue if its record does (R8, R10). -/
def joinReprintIf (n : Nat) (s : State) : State :=
  match s.findSet n with
  | some r => if r.reprints then joinReprint n s else s
  | none => s

/-- A set that became terminal joins the queues (R8). -/
def joinQueues (s : State) (n : Nat) : State := joinReprintIf n (joinCompletion n s)

/-- The sets that became terminal at the event under way join the queues, in ascending set number (R8). -/
def flushEnded (s : State) : State :=
  (ascending s.ev.ended).foldl joinQueues (s.setEv { s.ev with ended := [] })

/-! ### Freeing a record -/

/-- The last handed-over set gets its freed mark when the record it names is freed (R135). -/
def HandedOver.free (n : Nat) (h : HandedOver) : HandedOver := if h.number = n then { h with freed := true } else h

/-- The record of set n leaves the table. -/
def dropRecord (n : Nat) (s : State) : State :=
  s.setTable { s.table with records := s.table.records.filter fun r => r.number ≠ n }

/-- The Folder Controller marks the last handed-over set freed when it is set n (R135). -/
def freeHanded (n : Nat) (s : State) : State :=
  s.setFolder { s.folder with handed := s.folder.handed.map (HandedOver.free n) }

/-- A record is freed once its completion is reported and it is not in the Reprint Queue (R19). -/
def freeIfDone (n : Nat) (s : State) : State :=
  match s.findSet n with
  | none => s
  | some r =>
    if r.reported && !(s.table.reprint.contains n) then (freeHanded n (dropRecord n s)).askAwait else s

/-- Whether the last handed-over set is finished: no reference, the freed mark, a terminal record, or no record
(R114, R135). -/
def handedFinished (s : State) : Bool :=
  match s.folder.handed with
  | none => true
  | some h =>
    h.freed ||
      match s.setState h.number with
      | none => true
      | some x => x.terminal

end Sys2Proof.Machine
end

