-- ==== Sys2Proof/Machine/GatePlan.lean ====
section
/-! DEFINITION. The Firing Queue and the gate plan (chapter 5): making, firing and withholding firings, and the walks
that build the gate plan. -/

namespace Sys2Proof.Machine

/-! ### The queue -/

/-- The Firing Queue holds at most 32 entries (R90). -/
def queueCapacity : Nat := 32

/-- An entry put in its place by the signed distance from p to its fire point, behind its equals (R90). -/
def insertFiring (p : Pos) (f : Firing) : List Firing → List Firing
  | [] => [f]
  | g :: rest =>
    if signedDist p f.firePoint < signedDist p g.firePoint then f :: g :: rest else g :: insertFiring p f rest

/-- The queue in the order of R90 at position p. -/
def orderQueue (p : Pos) (q : List Firing) : List Firing := q.foldl (fun acc f => insertFiring p f acc) []

/-- The queue replaced. -/
def State.setQueue (s : State) (q : List Firing) : State := s.setFiring { s.firing with queue := q }

/-- An entry joins the queue, which takes its order again (R90). -/
def joinQueue (f : Firing) (s : State) : State := s.setQueue (orderQueue s.web.position (s.firing.queue ++ [f]))

/-- Two entries have the same actuator: the knife and the gate each are one. -/
def Actuator.same : Actuator → Actuator → Bool
  | .knife _, .knife _ => true
  | .gate _ _, .gate _ _ => true
  | _, _ => false

/-- The unfired entry with an actuator and a target, if one stands (R90: never two). -/
def standing (s : State) (a : Actuator) (target : Pos) : Option Firing :=
  s.firing.queue.find? fun f => f.actuator.same a && f.target == target

/-- The set number of the first Transit List entry with a row position that is assigned to a set (R99). -/
def rowSet (s : State) (row : Pos) : Option Nat := s.track.list.findSome? fun e => if e.row = row then e.set else none

/-! ### Firing and withholding -/

/-- An entry fires: the knife gives one pulse (R92), the gate goes to the entry's setting (R91). -/
def fire (a : Actuator) (s : State) : State :=
  match a with
  | .knife _ => s.setFiring { s.firing with knifePulses := s.firing.knifePulses + 1 }
  | .gate _ setting => s.setFiring { s.firing with actual := setting }

/-- A sheet is sent to the setting the gate will have for it. -/
def sendSheet (id : Nat) (setting : Disposition) (s : State) : State :=
  (updateSheet id (fun e => { e with disposition := setting }) s).askDump

/-- A sheet's disposition is rewritten to the setting the gate will have for it, with the consequences of R100: an
ACCUMULATE sheet of a set that goes to waste gives its set MISSED_FIRING. A disposition that agrees already stays. -/
def rewriteSheet (id : Nat) (setting : Disposition) (s : State) : State :=
  match s.findSheet id with
  | none => s
  | some e =>
    if e.disposition = setting then s
    else
      match setting with
      | .waste => recordCauseOpt e.set .missedFiring (sendSheet id .waste s)
      | .accumulate => sendSheet id .accumulate s

/-- An entry is withheld (R99, R100): a knife raises MISSED_BURST, a gate has its sheet's disposition rewritten to the
setting given. -/
def withhold (a : Actuator) (setting : Disposition) (s : State) : State :=
  match a with
  | .knife row => lineFault .missedBurst (rowSet s row) s
  | .gate sheet _ => rewriteSheet sheet setting s

/-- An entry that falls due with the lateness given is withheld when GUARD is open (R101) or the lateness exceeds the
actuator's late tolerance (R99, R100). -/
def mustWithhold (s : State) (a : Actuator) (lateness : Int) : Bool :=
  decide (s.line.guard = .opened) || decide (lateness > lateTol s a)

/-- A late firing within its tolerance is counted (R98). -/
def countLate (lateness : Int) (s : State) : State := if lateness > 0 then s.withTally Tally.late else s

/-- An entry falls due (R96, R98 to R101). `setting` is what a withheld gate's sheet is rewritten to. The flag says
whether the entry was withheld. -/
def takeDue (f : Firing) (lateness : Int) (setting : Disposition) (s : State) : State × Bool :=
  if mustWithhold s f.actuator lateness then (withhold f.actuator setting s, true)
  else (fire f.actuator (countLate lateness s), false)

/-- The setting a withheld GATE entry's sheet is rewritten to when the entry falls due at its making in a walk: the
actual gate position while GUARD is open (R101), else the walk's running setting (R100). -/
def withheldTo (s : State) (running : Disposition) : Disposition :=
  match s.line.guard with
  | .opened => s.firing.actual
  | .closed => running

/-- A GATE entry withheld while GUARD is open is followed by one re-derivation of the gate plan (R101). -/
def askGuarded (a : Actuator) (s : State) : State :=
  match a, s.line.guard with
  | .gate _ _, .opened => s.askGuardPlan
  | _, _ => s

/-- A firing that falls due at its making (R39, R98 to R101). `running` is the walk's running setting. The flag says
whether it was withheld. -/
def takeMade (f : Firing) (lateness : Int) (running : Disposition) (s : State) : State × Bool :=
  let r := takeDue f lateness (withheldTo s running) s
  (if r.2 then askGuarded f.actuator r.1 else r.1, r.2)

/-- The fault of a firing that finds the queue full carries the set of the sheet, or of the row's first assigned sheet
(R102). -/
def overflowSet (s : State) : Actuator → Option Nat
  | .knife row => rowSet s row
  | .gate sheet _ => (s.findSheet sheet).bind SheetEntry.set

/-- A firing is made (R102): refused when the queue is full, a GATE's sheet then being rewritten to the walk's running
setting; else it joins the queue when its fire point is ahead of P, and falls due at once when P has reached it (R39).
The flag says that the firing was withheld or not made. -/
def makeFiring (a : Actuator) (target : Pos) (running : Disposition) (s : State) : State × Bool :=
  if queueCapacity ≤ s.firing.queue.length then
    match a with
    | .knife _ => (lineFault .trackOverflow (overflowSet s a) s, true)
    | .gate sheet _ => (rewriteSheet sheet running (lineFault .trackOverflow (overflowSet s a) s), true)
  else
    let f : Firing := { actuator := a, target := target, firePoint := firePointOf s a target }
    if ahead s.web.position f.firePoint then (joinQueue f s, false)
    else takeMade f (signedDist f.firePoint s.web.position) running s

/-- The Tracking Engine's request for a row's knife firing (R92): one KNIFE entry, unless one with the same target
stands. -/
def requestKnife (row : Pos) (s : State) : State :=
  let target := knifeTarget s row
  match standing s (.knife row) target with
  | some _ => s
  | none => (makeFiring (.knife row) target s.firing.actual s).1

/-! ### The gate plan -/

/-- A GATE entry of the queue given another setting (R95). -/
def resetGate (target : Pos) (setting : Disposition) (s : State) : State :=
  s.setQueue (s.firing.queue.map fun f =>
    match f.actuator with
    | .gate sheet _ => if f.target = target then { f with actuator := .gate sheet setting } else f
    | .knife _ => f)

/-- A firing wanted in a walk for a sheet (R93 step 2, and the last paragraph of R95): the result state, the running
setting after it, and whether the firing was withheld or not made. -/
def walkFiring (e : SheetEntry) (want running : Disposition) (s : State) : State × Disposition × Bool :=
  let target := gateTarget s e
  match standing s (.gate e.id want) target with
  | some f =>
    match f.actuator with
    | .knife _ => (s, running, false)
    | .gate sheet setting =>
      if setting = want then (s, running, false)
      else (resetGate target .waste (rewriteSheet e.id .waste (rewriteSheet sheet .waste s)), .waste, false)
  | none =>
    let r := makeFiring (.gate e.id want) target running s
    (r.1, if r.2 then running else want, r.2)

/-- The earlier sheet of a pair goes where the later one goes (R95: the gate cannot part them). -/
def followSheet (p e : SheetEntry) (s : State) : State :=
  match s.findSheet e.id with
  | none => s
  | some x => rewriteSheet p.id x.disposition s

/-- The later entry of a pair given WASTE is walked against the running setting (R95 step 2): with ACCUMULATE running a
GATE entry to WASTE is made for it, and when that is withheld both are rewritten alike: to ACCUMULATE, or, where an open
GUARD withheld it, to the actual gate position (R101, assumption 31). Where it is not made because the queue is full,
R102 speaks of the entry's own sheet only; the model's choice is that the pair stays together there too (assumption
35). -/
def walkWasted (p e : SheetEntry) (running : Disposition) (s : State) : State × Disposition :=
  match running with
  | .waste => (s, .waste)
  | .accumulate =>
    let r := walkFiring e .waste .accumulate s
    (if r.2.2 then followSheet p e r.1 else r.1, r.2.1)

/-- Two sheets that reach the gate together with differing dispositions are given WASTE (R95). p is the entry walked
just before e. -/
def walkPair (p e : SheetEntry) (running : Disposition) (s : State) : State × Disposition :=
  let target := gateTarget s e
  match p.disposition with
  | .accumulate =>
    if ((standing s (.gate p.id .accumulate) target).map Firing.actuator) = some (.gate p.id .accumulate) then
      (resetGate target .waste (rewriteSheet p.id .waste s), .waste)
    else walkWasted p e running (rewriteSheet p.id .waste s)
  | .waste => walkWasted p e running (rewriteSheet e.id .waste s)

/-- One entry of a walk (R93, R95): `prev` is the sheet id of the entry walked just before. -/
def walkEntry (prev : Option Nat) (id : Nat) (running : Disposition) (s : State) : State × Disposition :=
  match s.findSheet id with
  | none => (s, running)
  | some e =>
    let alone : State × Disposition :=
      if e.disposition = running then (s, running)
      else
        let r := walkFiring e e.disposition running s
        (r.1, r.2.1)
    match prev.bind s.findSheet with
    | none => alone
    | some p =>
      if gateTarget s p = gateTarget s e ∧ p.disposition ≠ e.disposition then walkPair p e running s else alone

/-- A walk over the sheets given, in reading order (R93, R94): the planned gate position becomes the running setting
when it ends. -/
def walk : Option Nat → List Nat → Disposition → State → State
  | _, [], running, s => s.setFiring { s.firing with planned := running }
  | prev, id :: rest, running, s =>
    let r := walkEntry prev id running s
    walk (some id) rest r.2 r.1

/-- The sheet ids of the entries whose past gate is no, in reading order. -/
def beforeGate (s : State) : List Nat := (s.track.list.filter fun e => !e.pastGate).map SheetEntry.id

/-- Every turn to waste from here on asks for a re-derivation (R93: a walk reads dispositions as it reaches them). -/
def State.noneMade (s : State) : State := s.setEv { s.ev with made := [] }

/-- Every GATE entry leaves the queue (R93). -/
def dropGates (s : State) : State := s.setQueue (s.firing.queue.filter fun f => f.actuator.same (.knife 0))

/-- A re-derivation of the gate plan (R93). -/
def rederive (s : State) : State := walk none (beforeGate s) s.firing.actual (dropGates s.noneMade)

/-- An extension of the gate plan over the entries made at the event under way (R94, R95). -/
def extendPlan (s : State) : State :=
  let new := (beforeGate s).filter fun id => s.ev.made.contains id
  let old := (beforeGate s).filter fun id => !(s.ev.made.contains id)
  walk old.getLast? new s.firing.planned s.noneMade

/-- Whether a re-derivation of the gate plan is to be made at the event under way (R88, R100, R101). -/
def Event.planWanted (e : Event) : Bool := e.replan || e.guardPlan == .asked

/-- The re-derivation of R101, once it is taken up, is not asked for again at the event. -/
def GuardPlan.take : GuardPlan → GuardPlan
  | .asked => .made
  | x => x

/-- The requests for a re-derivation are taken up: one serves them all (R93). -/
def State.planAsked (s : State) : State :=
  s.setEv { s.ev with replan := false, guardPlan := s.ev.guardPlan.take }

/-- Re-derivations until none is asked for. One asked for by a walk follows a set's becoming REJECTING, or is the one of
R101, so the number of entries bounds them. -/
def replanLoop : Nat → State → State
  | 0, s => s
  | fuel + 1, s =>
    if s.ev.planWanted then replanLoop fuel (rederive s.planAsked) else s

/-- The re-derivations that the event under way asked for (R88, R100, R101). -/
def replan (s : State) : State := replanLoop (s.track.list.length + 2) s

/-- The one gate plan request of a row that was entered (R88): a re-derivation when its matching changed an earlier
entry, which is left to the event's end (assumption 37), else an extension, walked here. -/
def planRow (s : State) : State := if s.ev.replan then s else extendPlan s

end Sys2Proof.Machine
end

