-- ==== Sys2Proof/Machine/Stack.lean ====
section
/-! DEFINITION. The shared operations of the Accumulator Controller (chapter 6): accumulator steps, hand-over, the
dump, the strokes, the obligation, ACC_BLOCKED; and the end of every event. -/

namespace Sys2Proof.Machine

/-! ### The held set -/

/-- The record of the held set. -/
def State.heldRec (s : State) : Option SetRec := s.acc.held.bind s.findSet

/-- The next accumulator step of a set: the first one in program order whose kind is not in steps passed (R3, R111). -/
def SetRec.nextStep (r : SetRec) : Option Step :=
  r.program.find? fun x => x.kind.atAccumulator && !(r.stepsPassed.contains x.kind)

/-- An accumulator step kind joins steps passed, each at most once (Table 1-1). -/
def SetRec.pass (k : StepKind) (r : SetRec) : SetRec :=
  { r with stepsPassed := if r.stepsPassed.contains k then r.stepsPassed else r.stepsPassed ++ [k] }

/-- Set n is HELD at its HOLD step of t s (R113): the hold timer starts and SET_HELD is raised. -/
def beginHold (n t : Nat) (s : State) : State :=
  let s := putSetState n .held s
  raiseCond .setHeld (.setNumber n) (s.setAcc { s.acc with holdTimer := msTimer (t * 1000) })

/-- The held set, COLLECTED, takes its next accumulator step (R111): a JOG step waits for its stroke (R112), a HOLD
step passes or makes the set HELD (R113), an AWAIT step passes or makes it WAITING (R114). A step that passes at once
is followed by the next; a program has at most three accumulator steps. -/
def takeSteps : Nat → State → State
  | 0, s => s
  | fuel + 1, s =>
    match s.heldRec with
    | none => s
    | some r =>
      match r.state with
      | .collected =>
        match r.nextStep with
        | some (.hold t) =>
          if r.preReleased then takeSteps fuel (updateSet r.number (SetRec.pass .hold) s)
          else beginHold r.number t s
        | some .await =>
          if handedFinished s then takeSteps fuel (updateSet r.number (SetRec.pass .await) s)
          else putSetState r.number .waiting s
        | _ => s
      | _ => s

/-- The accumulator steps taken until one waits (R111). -/
def runSteps (s : State) : State := takeSteps 4 s

/-! ### ACC_BLOCKED -/

/-- Whether ACC_BLOCKED holds (R123). -/
def accBlockedNow (s : State) : Bool :=
  match s.acc.state with
  | .empty => false
  | st =>
    match s.oldestAccumulate with
    | none => false
    | some e =>
      !(st == .collecting && e.set.isSome && e.set == s.acc.held)
        && decide (signedDist s.web.position e.accArrival ≤ s.line.geometry.stopping)

/-- ACC_BLOCKED is evaluated (R123). -/
def evalAccBlocked (s : State) : State := setHold .accBlocked (accBlockedNow s) s

/-! ### Hand-over -/

/-- Whether a set is ready for hand-over: COLLECTED in a COMPLETE accumulator with no accumulator step left (R3,
R111). -/
def readySet (s : State) : Option SetRec :=
  match s.acc.state, s.heldRec with
  | .complete, some r => if r.state = .collected ∧ r.nextStep = none then some r else none
  | _, _ => none

/-- Whether a set needs a squaring jog: it is SKEWED and its fold kind is not NONE (R115). -/
def SetRec.needsSquaring (r : SetRec) : Bool := r.skewed && foldKindOf r.program != .none

/-- Whether hand-over may start (R115). -/
def canHandOver (s : State) : Bool :=
  match readySet s with
  | none => false
  | some r =>
    s.folder.state == .idle && decide (s.belt.queue.length < 3) && s.acc.stroke.isNone && s.line.guard == .closed
      && s.line.state != .faulted && s.acc.obligation != .forced && !r.needsSquaring

/-- The release starts (R115). -/
def startRelease (s : State) : State :=
  s.setAcc
    { s.acc with
      state := .releasing
      jogInterval := none
      releaseTimeout := msTimer s.line.geometry.actuatorTimeout }

/-- The Folder Controller's last handed-over set becomes set r (R127). -/
def nameHanded (r : SetRec) (s : State) : State :=
  s.setFolder { s.folder with handed := some { number := r.number, freed := false, kind := foldKindOf r.program } }

/-- Hand-over starts for set r (R115, R127). -/
def startHandOver (r : SetRec) (s : State) : State :=
  evalAccBlocked (nameHanded r (startRelease (putSetState r.number .folding s)))

/-- The hand-over conditions are examined (R115). -/
def examHandOver (s : State) : State :=
  match readySet s with
  | some r => if canHandOver s then startHandOver r s else s
  | none => s

/-! ### The dump -/

/-- Whether an entry belongs to the held set or one of the other sets. -/
def inBin (s : State) (e : SheetEntry) : Bool :=
  match e.set with
  | none => false
  | some n => s.acc.held == some n || s.acc.others.contains n

/-- Whether the contents are to be dumped: no held set, or a REJECTING one (R117). -/
def contentsRejected (s : State) : Bool :=
  match s.acc.held with
  | none => true
  | some n => s.setState n == some .rejecting

/-- Whether a dump is due (R117). -/
def dumpDue (s : State) : Bool :=
  (s.acc.state == .collecting || s.acc.state == .complete) && contentsRejected s
    && !(s.track.list.any fun e => e.disposition == .accumulate && e.pastGate && inBin s e)
    && s.acc.stroke.isNone && s.line.guard == .closed

/-- The dump starts (R117). -/
def startDump (s : State) : State :=
  evalAccBlocked (s.setAcc
    { s.acc with
      state := .dumping
      jogInterval := none
      dumpTimeout := msTimer s.line.geometry.actuatorTimeout })

/-- The dump conditions are examined (R117). -/
def examDump (s : State) : State := if dumpDue s then startDump s else s

/-! ### The jogger -/

/-- Whether a stroke may start as far as the accumulator, the jogger and GUARD go (R119). -/
def canStroke (s : State) : Bool :=
  (s.acc.state == .collecting || s.acc.state == .complete) && s.acc.stroke.isNone && s.line.guard == .closed

/-- A stroke starts (R119). A full stroke started while the accumulator is COMPLETE is a squaring stroke (R109). -/
def startStroke (full jogStep : Bool) (s : State) : State :=
  s.setAcc
    { s.acc with
      stroke := some { full := full, squaring := full && s.acc.state == .complete, jogStep := jogStep }
      jogInterval := none
      jogTimeout := msTimer s.line.geometry.actuatorTimeout }

/-- Whether a squaring stroke is wanted, and whether it is the JOG step's (R112, R115, R119). -/
def squaringWanted (s : State) : Option Bool :=
  match s.acc.state, s.heldRec with
  | .complete, some r =>
    if r.state = .collected then
      match r.nextStep with
      | some .jog => some true
      | none => if r.needsSquaring then some false else none
      | some _ => none
    else none
  | _, _ => none

/-- A wanted squaring stroke starts when it may (R119). -/
def examSquaring (s : State) : State :=
  match squaringWanted s with
  | some jogStep => if canStroke s then startStroke true jogStep s else s
  | none => s

/-- The gap g: the signed distance from P to the accumulator arrival of the oldest ACCUMULATE entry, none when it is
infinite (R25, R121). -/
def gap (s : State) : Option Int := s.oldestAccumulate.map fun e => signedDist s.web.position e.accArrival

/-- Whether the gap is at least a clearance; an infinite gap is greater than every clearance (R25). -/
def gapAtLeast (s : State) (c : Nat) : Bool :=
  match gap s with
  | none => true
  | some g => decide ((c : Int) ≤ g)

/-- The stroke that the jog obligation wants at an arrival or speed update: full or short (Table 6-2). -/
def obligationStroke (s : State) : Option Bool :=
  match s.acc.obligation with
  | .clear => none
  | .due => if gapAtLeast s (clearanceFull s) then some true else none
  | .urgent => if gapAtLeast s (clearanceShort s) then some false else none
  | .forced => if s.web.speed = 0 ∨ gapAtLeast s (clearanceFull s) = true then some true else none

/-- The obligation's stroke starts when it may and nothing goes before it: no dump due, no hand-over that can start, no
squaring stroke wanted (R119, R121). -/
def examObligation (s : State) : State :=
  match obligationStroke s with
  | none => s
  | some full =>
    if canStroke s && !(dumpDue s) && !(canHandOver s) && (squaringWanted s).isNone then startStroke full false s else s

/-- The obligation is put at a level, and the hold cause JOG_FORCED follows it (R121, R122). -/
def setObligation (o : Obligation) (s : State) : State :=
  setHold .jogForced (o == .forced) (s.setAcc { s.acc with obligation := o })

/-- What an event that may free the accumulator examines: dump, hand-over, squaring stroke (R115, R117, R119). -/
def examStack (s : State) : State := examSquaring (examHandOver (examDump s))

/-! ### The end of an event -/

/-- The event under way begins with nothing left to do. -/
def State.begin (s : State) : State := s.setEv Event.none

/-- A waiting step of a set is finished: its kind is passed and the set returns to COLLECTED (R15, R114). -/
def SetRec.finish (k : StepKind) (r : SetRec) : SetRec := { r.pass k with state := .collected }

/-- A COLLECTED held set goes on with its next accumulator step; a hand-over or a squaring stroke may start (R111,
R115, R119). -/
def goOn (s : State) : State := examSquaring (examHandOver (runSteps s))

/-- A WAITING set's wait ends when the last handed-over set is finished (R114, R135): AWAIT is passed, the set returns
to COLLECTED and takes its next step. -/
def endAwait (s : State) : State :=
  match s.heldRec with
  | some r =>
    if r.state = .waiting ∧ handedFinished s = true then
      goOn (updateSet r.number (SetRec.finish .await) s)
    else s
  | none => s

/-- The dump conditions are examined when the event under way asked for it (R117). -/
def examDumpIf (s : State) : State := if s.ev.dumpExam then examDump s else s

/-- What the event under way asked to be examined: an AWAIT step's end (R135), then the dump (R117). -/
def examAsked (s : State) : State := examDumpIf (if s.ev.awaitExam then endAwait s else s)

/-- The event under way is brought to its end, but for its notices: the re-derivations of the gate plan it asked for, after
all that its own rule does (R88 "after an event"; DEDUCED, assumption 37), what it asked to be examined, and the sets it
ended (R8). -/
def settle (s : State) : State := flushEnded (examAsked (replan s))

/-- A machine event: its own rule, then its end and its notices (R177). -/
def event (rule : State → State) (s : State) : State :=
  (flushNotices (settle (rule s.begin))).setEv Event.none

end Sys2Proof.Machine
end

