-- ==== Sys2Proof/Machine/Matching.lean ====
section
/-! DEFINITION. The Tracking Engine (chapter 4): entering a decoded row, matching its sheets to sets, orphans, the
refused row, lock loss, and the retirements. -/

namespace Sys2Proof.Machine

/-- A sheet of a decoded row as the Mark Reader hands it on (R55). -/
structure RowSheet where
  lane : Lane
  order : MergeOrder
  decoded : Decoded
  deriving DecidableEq, Repr, Inhabited

/-- A decoded row: its row position and its sheets, FIRST before SECOND (R53, R55). -/
structure DecodedRow where
  row : Pos
  sheets : List RowSheet
  deriving DecidableEq, Repr, Inhabited

/-- The Transit List holds at most 48 entries (R63). -/
def listCapacity : Nat := 48

/-! ### The reference and orphans -/

/-- The reading set reference replaced. -/
def State.setRef (s : State) (r : ReadingRef) : State := s.setTrack { s.track with ref := r }

/-- The orphan-run flag replaced. -/
def State.setOrphanRun (s : State) (b : Bool) : State := s.setTrack { s.track with orphanRun := b }

/-- An orphan is made (R82): with the flag clear it begins a run and raises UNEXPECTED_PAGES. -/
def makeOrphan (tag : Option Nat) (reason : OrphanReason) (s : State) : State :=
  if s.track.orphanRun then s else (raiseCond .unexpectedPages (.orphan tag reason) s).setOrphanRun true

/-- An entry is assigned to a set, with the page number and disposition given (R64). -/
def assignSheet (id n : Nat) (page : Option Nat) (d : Disposition) (s : State) : State :=
  updateSheet id (fun e => { e with set := some n, page := page, disposition := d }) s

/-- An entry of a FAULTED_RUN's set is assigned to it while it is REJECTING, and is made with set absent once the set is
terminal (R77, R79, R86). -/
def assignToRun (id n : Nat) (s : State) : State :=
  if s.setState n = some .rejecting then assignSheet id n none .waste s else s

/-! ### Matching a page (R78 to R81) -/

/-- A page is accepted (R78): it is counted, its entry goes to the accumulator, and a LAST page completes the read. -/
def acceptPage (id n : Nat) (m : Mark) (s : State) : State :=
  let s' := assignSheet id n (some m.page) .accumulate (updateSet n (fun r => { r with pagesRead := r.pagesRead + 1 }) s)
  match m.kind with
  | .last => (updateSet n (fun r => { r with readComplete := true }) s').setRef .none
  | _ => s'

/-- A page of the reading set (R78): the checks in order, else the page is accepted. -/
def matchReading (id n : Nat) (m : Mark) (s : State) : State :=
  match s.findSet n with
  | none => s
  | some r =>
    if m.page ≠ r.pagesRead + 1 then recordCause n .outOfSequence none (assignSheet id n none .waste s)
    else if m.kind = .last ∧ m.page < r.pages then
      (recordCause n .shortSet none (assignSheet id n none .waste s)).setRef .none
    else if m.kind = .page ∧ m.page = r.pages then recordCause n .missingLast none (assignSheet id n none .waste s)
    else acceptPage id n m s

/-- The record with a tag (R2, R81). -/
def State.findTag (s : State) (tag : Nat) : Option SetRec := s.table.records.find? fun r => r.tag == tag

/-- A set is started by its page 1 (R81): it becomes ACTIVE and the reference names it in READING. -/
def startSet (r : SetRec) (s : State) : State :=
  (updateSet r.number (fun r => { r with state := .active, pagesRead := 0 }) s).setRef
    (.reading r.number r.tag r.colour)

/-- Page 1 met while the reference is NONE (R81): it starts its set, or is an orphan. -/
def matchFirst (id : Nat) (m : Mark) (s : State) : State :=
  match s.findTag m.tag with
  | none => makeOrphan (some m.tag) .unknown s
  | some r =>
    if r.colour ≠ m.colour then makeOrphan (some m.tag) .wrongJob s
    else
      match r.state with
      | .cancelled => makeOrphan (some m.tag) .cancelled s
      | .pending => matchReading id r.number m (startSet r s)
      | _ => makeOrphan (some m.tag) .alreadyRun s

/-- A page met while the reference is NONE (R81): a page 1 clears the orphan-run flag first. -/
def matchStart (id : Nat) (m : Mark) (s : State) : State :=
  if m.page ≠ 1 then makeOrphan (some m.tag) .notFirst s else matchFirst id m (s.setOrphanRun false)

/-- A page of a FAULTED_RUN's run (R79). -/
def matchRun (id n : Nat) (m : Mark) (s : State) : State :=
  let s := assignToRun id n s
  match m.kind with
  | .last => s.setRef .none
  | _ => s

/-- A PAGE or LAST entry (Table 4-3). -/
def matchPage (id : Nat) (m : Mark) (s : State) : State :=
  match s.track.ref with
  | .none => matchStart id m s
  | .reading n tag colour =>
    if m.tag = tag ∧ m.colour = colour then matchReading id n m s
    else matchStart id m ((recordCause n .shortSet none s).setRef .none)
  | .faultedRun n tag colour =>
    if m.tag = tag ∧ m.colour = colour then matchRun id n m s else matchStart id m (s.setRef .none)

/-- The set that the reference names in READING, if any, takes a cause (R70, R76, R84, R87). -/
def faultReading (c : SetCause) (s : State) : State :=
  match s.track.ref with
  | .reading n _ _ => recordCause n c none s
  | _ => s

/-- A BANNER entry (R76). -/
def matchBanner (s : State) : State := ((faultReading .shortSet s).setRef .none).setOrphanRun false

/-- An UNREAD entry (R77). -/
def matchUnread (id : Nat) (s : State) : State :=
  match s.track.ref with
  | .reading n _ _ => recordCause n .unreadPage none (assignSheet id n none .waste s)
  | .faultedRun n _ _ => assignToRun id n s
  | .none => makeOrphan none .unread s

/-- A new entry is matched by the first line of Table 4-3 that applies (R74). It was made WASTE with no set. -/
def matchEntry (id : Nat) (d : Decoded) (s : State) : State :=
  match d.mark with
  | none => matchUnread id s
  | some m =>
    match m.kind with
    | .filler => s
    | .banner => matchBanner s
    | .page | .last => matchPage id m s

/-! ### Retirements -/

/-- A WASTE entry leaves the list (R68). -/
def retireWaste (e : SheetEntry) (s : State) : State :=
  testDivertedOpt e.set (evalTrackFull (removeSheet e.id s))

/-- Whether a WASTE entry's waste retirement has come: P has passed its gate arrival plus the arrival tolerance
(R68). -/
def wasteOver (s : State) (e : SheetEntry) : Bool :=
  e.disposition == .waste && passed s.web.position (plus e.gateArrival s.line.geometry.arrivalTol)

/-- Whether an ACCUMULATE entry is lost: P has passed its accumulator arrival plus the arrival tolerance (R110). -/
def arrivalOver (s : State) (e : SheetEntry) : Bool :=
  e.disposition == .accumulate && passed s.web.position (plus e.accArrival s.line.geometry.arrivalTol)

/-- The lost retirement of an entry (R110). TRACK_FULL is evaluated before the line fault is taken, so that with the line
RUNNING its change raises HOLD_CHANGED (assumption 36). -/
def retireLost (e : SheetEntry) (s : State) : State :=
  (lineFault .missingSheet e.set (testDivertedOpt e.set (recordCauseOpt e.set .missingSheet
    (evalTrackFull (removeSheet e.id s))))).askDump

/-! ### Entering a row -/

/-- The entry of a sheet as it is made, before it is matched (R64, R65, R67). -/
def newEntry (s : State) (row : Pos) (x : RowSheet) : SheetEntry :=
  { id := s.track.nextId, row := row, order := x.order, result := x.decoded.result, mark := x.decoded.mark,
    set := none, page := none, disposition := .waste, gateArrival := gateArrivalOf s row x.order,
    accArrival := accArrivalOf s row x.order,
    pastGate := passed s.web.position (gateArrivalOf s row x.order) }

/-- An entry made when P has already passed its retirement leaves at once, at its own making, once it has been matched: a
WASTE entry by its waste retirement (R68), an ACCUMULATE entry by its lost retirement (R26, R110; assumption 12). -/
def retireAtOnce (id : Nat) (s : State) : State :=
  match s.findSheet id with
  | some e => if wasteOver s e then retireWaste e s else if arrivalOver s e then retireLost e s else s
  | none => s

/-- An entry joins the list's tail, and its sheet id is taken (R63, R65). -/
def appendEntry (e : SheetEntry) (s : State) : State :=
  s.setTrack { s.track with list := s.track.list ++ [e], nextId := (s.track.nextId + 1) % 65536 }

/-- An entry was made at the event under way (R88). -/
def State.noteMade (s : State) (id : Nat) : State := s.setEv { s.ev with made := s.ev.made ++ [id] }

/-- One sheet of a row is entered: its entry is made and appended, matched, and retired at once when it is already past
(R66 steps 1 to 3). -/
def enterSheet (row : Pos) (s : State) (x : RowSheet) : State :=
  let id := s.track.nextId
  (retireAtOnce id (matchEntry id x.decoded ((appendEntry (newEntry s row x) s).noteMade id))).withTally Tally.tracked

/-- The set number the reading set reference names, when it names one (R70). -/
def ReadingRef.number : ReadingRef → Option Nat
  | .none => Option.none
  | .reading n _ _ => some n
  | .faultedRun n _ _ => some n

/-- A row that would take the list past its capacity is not entered (R70). -/
def refuseRow (row : Pos) (s : State) : State :=
  requestKnife row (faultReading .unreadPage (lineFault .trackOverflow s.track.ref.number s))

/-- The Tracking Engine takes a decoded row (R66, R70). An extension is walked at step 5, before TRACK_FULL is evaluated; a
re-derivation is asked for there and walked at the event's end, after it (R88; DEDUCED, assumption 37). -/
def enterRow (r : DecodedRow) (s : State) : State :=
  if listCapacity < s.track.list.length + r.sheets.length then refuseRow r.row s
  else evalTrackFull (planRow (requestKnife r.row (r.sheets.foldl (enterSheet r.row) s)))

/-- The Tracking Engine is told of a lock loss (R87). -/
def trackLockLoss (s : State) : State := ((faultReading .lostLock s).setRef .none).setOrphanRun false

end Sys2Proof.Machine
end

