-- ==== Sys2Proof/Machine/RowReading.lean ====
section
/-! DEFINITION. The Mark Reader (chapter 3): decoding a mark, the Mark Capture record, taking a bar event, closing a
row, losing the lock. -/

namespace Sys2Proof.Machine

/-! ### The mark code (R40 to R43) -/

/-- The cell at a position. -/
def cell (c : Cells) (i : Nat) : Bool := c.getLsbD i

/-- The positions 1 to 31, which the syndrome covers (R40). -/
def coded : List Nat := (List.range 31).map (· + 1)

/-- The syndrome: the exclusive-or of the position numbers of the 1-cells among positions 1 to 31 (R40). -/
def syndrome (c : Cells) : Nat := coded.foldl (fun s i => if cell c i then s ^^^ i else s) 0

/-- Whether the count of 1-cells over all 32 positions is odd (R42). -/
def parityOdd (c : Cells) : Bool := (List.range 32).foldl (fun b i => b != cell c i) false

/-- A cell inverted. -/
def invertCell (c : Cells) (i : Nat) : Cells := c ^^^ (1#32 <<< i)

/-- The number that cells carry, most significant bit first (R41). -/
def fieldAt (c : Cells) (positions : List Nat) : Nat :=
  positions.foldl (fun n i => 2 * n + (if cell c i then 1 else 0)) 0

/-- The mark kind of its two data bits (Table 3-2). -/
def MarkKind.ofBits : Nat → MarkKind
  | 0 => .page
  | 1 => .last
  | 2 => .filler
  | _ => .banner

/-- The payload of a mark (Table 3-2). -/
def payload (c : Cells) : Mark :=
  { kind := MarkKind.ofBits (fieldAt c [3, 5])
    tag := fieldAt c [6, 7, 9, 10, 11, 12, 13, 14, 15, 17, 18, 19, 20, 21]
    page := fieldAt c [22, 23, 24, 25, 26, 27, 28, 29]
    colour := fieldAt c [30, 31] }

/-- The outcome of Table 3-3 and, unless it is UNREAD, the cells the data are taken from. -/
def decodeCells (c : Cells) : MarkResult × Option Cells :=
  match parityOdd c, syndrome c with
  | false, 0 => (.clean, some c)
  | true, 0 => (.corrected, some c)
  | true, s + 1 => (.corrected, some (invertCell c (s + 1)))
  | false, _ + 1 => (.unread, none)

/-- A mark is UNREAD with a cause. -/
def Decoded.unread (cause : UnreadCause) : Decoded := { result := .unread, mark := none, cause := some cause }

/-- Whether a mark of a page carries page number 0 (R43 check 3). -/
def Mark.badPage (m : Mark) : Bool := (m.kind == .page || m.kind == .last) && m.page == 0

/-- A bar event's mark decoded by R42 and the checks of R43, in order. -/
def decodeMark (strict truncated : Bool) (c : Cells) : Decoded :=
  if truncated then .unread .truncated
  else
    match decodeCells c with
    | (result, some cells) =>
      let m := payload cells
      if m.badPage then .unread .badPage
      else if result = .corrected ∧ strict = true then .unread .strict
      else { result := result, mark := some m, cause := none }
    | (_, none) => .unread .uncorrectable

/-! ### The Mark Capture record (R58 to R60) -/

/-- The severity a decode error is offered with, and whether its tag is present: none for a CLEAN mark and a MISSED
lane (R58). -/
def offeredSeverity (d : Decoded) : Option (Severity × Bool) :=
  match d.result, d.cause with
  | .corrected, _ => some (.corrected, true)
  | .unread, some .strict => some (.corrected, true)
  | .unread, some .uncorrectable => some (.uncorrectable, false)
  | .unread, some .badPage => some (.uncorrectable, true)
  | .unread, some .truncated => some (.uncorrectable, false)
  | _, _ => none

/-- The record that a decode error offers (R58): syndrome and parity as computed, 0 and no for a truncated mark. -/
def captureOf (lane : Lane) (row : Pos) (truncated : Bool) (c : Cells) (severity : Severity) (withTag : Bool) : Capture :=
  { severity := severity
    lane := some lane
    row := some row
    syndrome := some (if truncated then 0 else syndrome c)
    parityOdd := some (!truncated && parityOdd c)
    tag := if withTag then (decodeCells c).2.map fun cells => (payload cells).tag else none }

/-- A decode error offered to the record (R59, R60): it replaces a record of lower severity, and a CORRECTED record when
it is CORRECTED; a rise in severity raises CAPTURE with the new severity. -/
def offerCapture (offer : Capture) (s : State) : State :=
  let held := s.reader.capture.severity
  if held.code < offer.severity.code then
    raiseCond .capture (.severity offer.severity) (s.setReader { s.reader with capture := offer })
  else if held = .corrected ∧ offer.severity = .corrected then s.setReader { s.reader with capture := offer }
  else s

/-- A matched mark's decode error, if it is one, offered to the record (R43, R58). -/
def captureMark (lane : Lane) (row : Pos) (truncated : Bool) (c : Cells) (d : Decoded) (s : State) : State :=
  match offeredSeverity d with
  | some (severity, withTag) => offerCapture (captureOf lane row truncated c severity withTag) s
  | none => s

/-! ### Rows (R48 to R55) -/

/-- The bar of a lane in the open row. -/
def OpenRow.bar (r : OpenRow) : Lane → Option SeenBar
  | .left => r.left
  | .right => r.right

/-- The open row with a lane's bar recorded. -/
def OpenRow.see (r : OpenRow) (lane : Lane) (b : SeenBar) : OpenRow :=
  match lane with
  | .left => { r with left := some b }
  | .right => { r with right := some b }

/-- Whether every lane of the layout has reported (R51). -/
def OpenRow.full (r : OpenRow) (layout : Layout) : Bool :=
  match layout with
  | .oneUp => r.left.isSome
  | .twoUp => r.left.isSome && r.right.isSome

/-- The earliest bar position of a row, none when no lane was seen (R52). -/
def OpenRow.earliest (r : OpenRow) : Option Pos :=
  match r.left, r.right with
  | some a, some b => if signedDist a.position b.position < 0 then some b.position else some a.position
  | some a, none => some a.position
  | none, some b => some b.position
  | none, none => none

/-- The lanes of a row in merge order, FIRST before SECOND (R53). -/
def lanesOf (p : Profile) : List (Lane × MergeOrder) :=
  match p.layout, p.order with
  | .oneUp, _ => [(.left, .first)]
  | .twoUp, .leftFirst => [(.left, .first), (.right, .second)]
  | .twoUp, .rightFirst => [(.right, .first), (.left, .second)]

/-- The sheet of a lane: as its bar decoded, or UNREAD MISSED (R52). -/
def rowSheet (r : OpenRow) (x : Lane × MergeOrder) : RowSheet :=
  { lane := x.1
    order := x.2
    decoded :=
      match r.bar x.1 with
      | some b => b.decoded
      | none => .unread .missed }

/-- The Line Tally's counts of an emitted row (R55). -/
def countSheet (t : Tally) (x : RowSheet) : Tally :=
  match x.decoded.result with
  | .clean => t
  | .corrected => t.corrected
  | .unread => t.unread

/-- The Mark Reader enters HUNT (R47, R54): no row open, no reference, miss count 0, hunt start position P. -/
def enterHunt (s : State) : State :=
  s.setReader
    { s.reader with state := .hunt, openRow := none, rowRef := none, miss := 0, huntStart := s.web.position }

/-- The miss count after a row closed (R54). -/
def nextMiss (r : OpenRow) (miss : Nat) : Nat :=
  match r.earliest with
  | some _ => 0
  | none => miss + 1

/-- The next row opens at once (R51). -/
def nextRow : OpenRow := { first := false, left := none, right := none }

/-- The second all-missed row in succession loses the lock (R54). -/
def loseLock (s : State) : State := trackLockLoss (raiseCond .lockLost .none (enterHunt s))

/-- The reference that a row leaves: its earliest bar, else its window's centre (R52). -/
def closingRef (s : State) (r : OpenRow) : Pos :=
  match r.earliest with
  | some p => p
  | none => plus (s.reader.rowRef.getD 0) s.table.profile.formLength

/-- The row as it is emitted (R52, R53). -/
def decodedRow (s : State) (r : OpenRow) : DecodedRow :=
  { row := minus (closingRef s r) s.table.profile.markOffset, sheets := (lanesOf s.table.profile).map (rowSheet r) }

/-- The reader goes on from a closed row: the next row opens on the new reference, and the miss count follows (R51, R52,
R54). -/
def advanceRow (r : OpenRow) (s : State) : State :=
  s.setReader
    { s.reader with openRow := some nextRow, rowRef := some (closingRef s r), miss := nextMiss r s.reader.miss }

/-- The Line Tally counts an emitted row (R55). -/
def countRow (row : DecodedRow) (s : State) : State := s.withTally fun t => row.sheets.foldl countSheet t.row

/-- One row closes and is emitted (R52 to R55), and the lock is lost at the second all-missed row (R54). -/
def closeOne (r : OpenRow) (s : State) : State :=
  let row := decodedRow s r
  let s' := enterRow row (countRow row (advanceRow r s))
  if 2 ≤ nextMiss r s.reader.miss then loseLock s' else s'

/-- The centre of the open row's window: the first bar of a first row, else the reference plus FL (R50, R51). -/
def windowCentre (s : State) (r : OpenRow) : Pos :=
  let ref := s.reader.rowRef.getD 0
  if r.first then ref else plus ref s.table.profile.formLength

/-- The half-width of the open row's window: skew for a first row, else tol (R50, R51). -/
def windowHalf (s : State) (r : OpenRow) : Nat := if r.first then s.table.profile.skew else s.table.profile.tol

/-- Whether P has passed the far edge of the open row (R50 step 2, R51 step 2). -/
def rowOver (s : State) (r : OpenRow) : Bool := passed s.web.position (plus (windowCentre s r) (windowHalf s r))

/-- The open row closes at once when P has passed its far edge as it opens, and so does each row after it (R26, R50, R51;
assumption 12). Such a row has no bar, so the second loses the lock: two rows at most close so. -/
def closePassed : Nat → State → State
  | 0, s => s
  | fuel + 1, s =>
    match s.reader.openRow with
    | some r => if rowOver s r then closePassed fuel (closeOne r s) else s
    | none => s

/-- A row closes (R52 to R55), and with it the rows that P has already passed as they open (R26). -/
def closeRow (r : OpenRow) (s : State) : State := closePassed 2 (closeOne r s)

/-- A bar event is matched to the open row: its mark is decoded and offered to the record, its lane is recorded as seen,
and the row closes when every lane has reported, or at once when P has passed its far edge already, as a first row after
HUNT may find it (R26, R42, R50, R51, R58). -/
def matchBar (r : OpenRow) (lane : Lane) (pos : Pos) (c : Cells) (truncated : Bool) (s : State) : State :=
  let d := decodeMark s.table.profile.strict truncated c
  let row := minus (windowCentre s r) s.table.profile.markOffset
  let r' := r.see lane { position := pos, decoded := d }
  let s' := captureMark lane row truncated c d (s.setReader { s.reader with openRow := some r' })
  if r'.full s.table.profile.layout || rowOver s' r' then closeRow r' s' else s'

/-- The first row after HUNT, with no bar yet (R49). -/
def firstRow : OpenRow := { first := true, left := none, right := none }

/-- The reader locks on a bar (R49): its position is the row reference, and the first row is open. -/
def lockOn (pos : Pos) (s : State) : State :=
  s.setReader { s.reader with state := .locked, rowRef := some pos, openRow := some firstRow }

/-- A bar event that passed the screen of R48, taken by the state of the reader (R49 to R51). -/
def takeBar (lane : Lane) (pos : Pos) (c : Cells) (truncated : Bool) (s : State) : State :=
  match s.reader.state, s.reader.openRow with
  | .locked, some r =>
    if (r.bar lane).isNone && within (windowHalf s r) pos (windowCentre s r) then matchBar r lane pos c truncated s
    else s
  | _, _ => matchBar firstRow lane pos c truncated (setHold .readerHunting false (lockOn pos s))

/-- Whether a bar event goes on past the screen of R48. -/
def barGoesOn (s : State) (lane : Lane) : Bool :=
  s.table.profileLoaded && !(s.table.profile.layout == .oneUp && lane == .right)

/-- READER_HUNTING is evaluated at a speed update (R57): asserted while RUNNING in HUNT once P has passed the hunt start
position plus 2 × FL, removed when the line is not RUNNING or the reader not in HUNT. -/
def evalHunting (s : State) : State :=
  if s.line.state = .running ∧ s.reader.state = .hunt then
    if passed s.web.position (plus s.reader.huntStart (2 * s.table.profile.formLength)) then
      setHold .readerHunting true s
    else s
  else setHold .readerHunting false s

end Sys2Proof.Machine
end

