-- ==== Sys2Proof/Machine/BeltOps.lean ====
section
/-! DEFINITION. The shared operations of the Folder Controller and the Delivery Controller (chapters 7 and 8): the fold
results, joining and leaving the Belt Queue, routing the head, the belt gate stroke, the offer. -/

namespace Sys2Proof.Machine

/-! ### The folder -/

/-- A fold result is recorded: the last becomes the previous (R134). -/
def Folder.record (f : Folder) (number : Nat) (pass : Bool) : Folder :=
  { f with previous := f.last, last := some { number := number, pass := pass } }

/-! ### The Belt Queue -/

/-- The belt travel timer starts for a new head, or stands stopped when the queue is empty (R140). -/
def startTravel (s : State) : State :=
  s.setBelt
    { s.belt with
      travel := if s.belt.queue.isEmpty then none else msTimer s.line.geometry.beltTravel
      travelPaused := false }

/-- Set n passes from the folder, which is left as f, to the tail of the Belt Queue. -/
def leaveTo (n : Nat) (f : Folder) (s : State) : State :=
  (s.setFolder f).setBelt { s.belt with queue := s.belt.queue ++ [n] }

/-- The at-end mark is no (R139). -/
def notAtEnd (s : State) : State := s.setBelt { s.belt with atEnd := false }

/-- A set leaves the folder, which is left as f, and joins the tail of the Belt Queue; joining an empty queue makes it the
head (R139, R140). A set in FOLDING becomes ON_BELT and a REJECTING set stays so (R131, R133). -/
def joinBelt (n : Nat) (f : Folder) (s : State) : State :=
  let s' := if s.setState n = some .folding then putSetState n .onBelt s else s
  if s.belt.queue.isEmpty then startTravel (notAtEnd (leaveTo n f s')) else leaveTo n f s'

/-- The head leaves the Belt Queue; the next set becomes the head with the at-end mark no, and its travel timer starts
(R139, R140). -/
def leaveBelt (s : State) : State :=
  startTravel (s.setBelt { s.belt with queue := s.belt.queue.tail, atEnd := false })

/-! ### The belt gate -/

/-- A wanted belt gate stroke starts when GUARD is closed (R143). -/
def examBeltGate (s : State) : State :=
  if s.belt.strokeWanted && !s.belt.stroke && s.line.guard == .closed then
    s.setBelt
      { s.belt with
        strokeWanted := false
        stroke := true
        gateTimeout := msTimer s.line.geometry.actuatorTimeout }
  else s

/-- A belt gate stroke is wanted for the head, and starts at this event unless GUARD is open (R143). -/
def wantBeltGate (s : State) : State := examBeltGate (s.setBelt { s.belt with strokeWanted := true })

/-! ### The offer -/

/-- The head is offered (R146). -/
def makeOffer (n : Nat) (s : State) : State :=
  raiseCond .offer (.setNumber n) (putSetState n .offered (s.setBelt
    { s.belt with offered := some n, offerTimer := msTimer s.line.geometry.offerTimeout }))

/-- The offer ends: its timer stops, the offered set is none and OFFER is removed (R146). -/
def endOffer (s : State) : State :=
  removeCond .offer (s.setBelt { s.belt with offered := none, offerTimer := none })

/-- An offer that stands is ended by a reset or PURGE, with WITHDRAWN (R151). -/
def withdrawOffer (s : State) : State :=
  match s.belt.offered with
  | some n => raiseCond .withdrawn (.setNumber n) (endOffer s)
  | none => s

/-- The head at the belt end is routed by its record (R142). -/
def routeHead (n : Nat) (s : State) : State :=
  match s.findSet n with
  | none => s
  | some r =>
    if r.state = .rejecting then wantBeltGate s
    else if routesDivert r.program then
      wantBeltGate (recordCause n .routed (stepIndex .route r.program) s)
    else if s.belt.readiness = .ready ∧ s.belt.offered = none then makeOffer n s
    else s

/-- A running belt travel timer at a speed update (R140, standing web): it stops at w = 0, and a timer so stopped starts
again whole at the first update with w above 0 while the head has not come to the end. -/
def updateTravel (s : State) : State :=
  if s.web.speed = 0 then
    match s.belt.travel with
    | some _ => s.setBelt { s.belt with travel := none, travelPaused := true }
    | none => s
  else if s.belt.travelPaused && !s.belt.atEnd && !s.belt.queue.isEmpty then startTravel s
  else s

end Sys2Proof.Machine
end

