-- ==== Sys2Proof/Machine/LineOps.lean ====
section
/-! DEFINITION. The shared operations of the Line Supervisor (chapter 9): abandoning the machine's contents, as RESET
LINE and warm start do, and writing them off, as PURGE does. -/

namespace Sys2Proof.Machine

/-- The set numbers of the records that satisfy p, in ascending order. -/
def setsWhere (s : State) (p : SetRec → Bool) : List Nat := ascending ((s.table.records.filter p).map SetRec.number)

/-- A set caught in the machine is INTERRUPTED (R22): it becomes REJECTING and keeps an earlier cause. -/
def SetRec.interrupt (r : SetRec) : SetRec :=
  if r.state.mayFail then
    { r with state := .rejecting, cause := some (r.cause.getD .interrupted) }
  else r

/-- The sets in the machine are INTERRUPTED; R7 moves none of them (R7, R22). -/
def interruptSets (s : State) : State :=
  s.setTable { s.table with records := s.table.records.map SetRec.interrupt }

/-- The Transit List is emptied, the reference is NONE, the orphan-run flag is clear and TRACK_FULL is removed (R89). -/
def emptyTracking (s : State) : State :=
  s.setTrack { s.track with list := [], ref := .none, orphanRun := false }

/-- The Firing Queue is emptied; the gate is kept and the plan follows it (R103). -/
def emptyFiring (s : State) : State :=
  s.setFiring { s.firing with queue := [], planned := s.firing.actual }

/-- The folder at RESET LINE and warm start (R136, R138): a fold in flight is aborted and records FAIL. -/
def Folder.abandon (f : Folder) : Folder :=
  let f' :=
    match f.state, f.set with
    | .folding, some n => f.record n false
    | _, _ => f
  { f' with state := .idle, set := none, timer := none }

/-- The folder at PURGE (R138). -/
def Folder.purge (f : Folder) : Folder := { f with state := .idle, set := none, timer := none }

/-- The accumulator is emptied, its operations abandoned (R125), and with the other owning blocks' removals the hold-cause
set becomes empty, with no HOLD_CHANGED (R154). -/
def emptyStack (s : State) : State :=
  (s.setAcc Accumulator.empty).setLine { s.line with holds := HoldSet.none }

/-- The folder taken to IDLE by one of its two ways (R136, R138). -/
def leaveFolderAs (folder : Folder → Folder) (s : State) : State := s.setFolder (folder s.folder)

/-- The Delivery Controller is emptied, readiness kept (R151). -/
def emptyBelt (s : State) : State := s.setBelt (Delivery.empty s.belt.readiness)

/-- The machine's collections are emptied, the standing offer ends with WITHDRAWN, the Mark Reader enters HUNT and the
hold-cause set becomes empty (R162 steps 2 to 4, R163 steps 1 and 3). -/
def emptyMachine (folder : Folder → Folder) (s : State) : State :=
  enterHunt (emptyBelt (withdrawOffer (leaveFolderAs folder (emptyStack (emptyFiring (emptyTracking s))))))

/-- The machine's contents are abandoned (R163 steps 1 to 3, R166). -/
def abandonMachine (s : State) : State := emptyMachine Folder.abandon (interruptSets s)

/-- A set written off by PURGE (R22, R162): it becomes DIVERTED, keeping its cause or taking PURGED. -/
def purgeSet (s : State) (n : Nat) : State :=
  makeTerminal n .diverted (updateSet n (fun r => { r with cause := some (r.cause.getD .purged) }) s)

/-- Every set in the machine is written off, in ascending set number (R22, R162 step 1). -/
def purgeSets (s : State) : State := (setsWhere s fun r => r.state.inMachine).foldl purgeSet s

/-- The line fault record is emptied, the line is STOPPED and the stop point is P (R162 step 5). -/
def stopClean (s : State) : State :=
  s.setLine { s.line with record := FaultRecord.none, state := .stopped, stopPoint := s.web.position }

/-- PURGE carried out (R162). -/
def purgeMachine (s : State) : State :=
  stopClean (emptyMachine Folder.purge (purgeSets s))

end Sys2Proof.Machine
end

