-- ==== Sys2Proof/Machine/Operands.lean ====
section
/-! DEFINITION. The bodies of requests (Table 10-8, Table 1-4, R45, R176) and the checks, clamps and merges that belong
to them: the descriptor and the walk of R4, the fields of AMEND SET, the web profile, the station geometry. -/

namespace Sys2Proof.Machine

/-! ### Plain bodies -/

/-- A body that is a set number and nothing more (Table 10-8). -/
def parseSetNumber (body : List Byte) : Option Nat := if body.length = 4 then some (leNat body) else none

/-- The body of REFUSE: set number and refuse code (Table 10-8). -/
def parseRefuse (body : List Byte) : Option (Nat × Nat) :=
  if body.length = 5 then some (leNat (body.take 4), leNat (body.drop 4)) else none

/-- The body of CLEAR CONDITION: a count of 0 to 6 and that many codes (Table 10-8). -/
def parseClear (body : List Byte) : Option (List Nat) :=
  match body with
  | [] => none
  | n :: codes => if n.toNat ≤ 6 ∧ codes.length = n.toNat then some (codes.map BitVec.toNat) else none

/-! ### The set descriptor (Table 1-4) -/

/-- A HOLD timeout clamped into 1 to 600 s (R3). -/
def clampHold (t : Nat) : Nat := if t < 1 then 1 else if t > 600 then 600 else t

/-- A priority clamped to 7 (Table 1-4). -/
def clampPriority (p : Nat) : Nat := if p > 7 then 7 else p

/-- The step that a kind code and an argument spell, before any clamp; none when either is not defined in Table 1-4
(R4 check 1). The argument of JOG and AWAIT is ignored. -/
def decodeStep (kind arg : Nat) : Option Step :=
  match kind with
  | 1 => some .jog
  | 2 => some (.hold arg)
  | 3 => some .await
  | 4 => (FoldKind.ofCode arg).map Step.fold
  | 5 => (Route.ofCode arg).map Step.route
  | _ => none

/-- The steps of a descriptor, 3 bytes each. -/
def decodeSteps : Nat → List Byte → List (Option Step)
  | n + 1, k :: a :: b :: rest => decodeStep k.toNat (leNat [a, b]) :: decodeSteps n rest
  | _, _ => []

/-- A set descriptor as received. -/
structure Descriptor where
  number : Nat
  jobId : Nat
  pages : Nat
  priority : Nat
  steps : List (Option Step)
  deriving DecidableEq, Repr, Inhabited

/-- A descriptor read by Table 1-4, or none where R5 gives BAD_FIELD. -/
def parseDescriptor (body : List Byte) : Option Descriptor :=
  match body with
  | s0 :: s1 :: s2 :: s3 :: j0 :: j1 :: pages :: priority :: count :: steps =>
    if steps.length = 3 * count.toNat ∧ 1 ≤ count.toNat ∧ count.toNat ≤ 8 ∧ leNat [s0, s1, s2, s3] ≠ 0
        ∧ pages.toNat ≠ 0 then
      some
        { number := leNat [s0, s1, s2, s3]
          jobId := leNat [j0, j1]
          pages := pages.toNat
          priority := priority.toNat
          steps := decodeSteps count.toNat steps }
    else none
  | _ => none

/-- The largest declared pages of a fold kind (Table 1-3). -/
def FoldKind.capacity : FoldKind → Nat
  | .none => 60
  | .half => 12
  | .letter => 8
  | .zed => 6
  | .double => 4

/-- Whether a step is bad at its place in the walk of R4: `before` are the kinds of the steps at earlier indices, `last`
says that it is step n. -/
def badStep (pages : Nat) (before : List StepKind) (last : Bool) : Option Step → Bool
  | none => true
  | some (.route _) => !last
  | some (.fold k) => before.contains .fold || decide (k.capacity < pages)
  | some x => before.contains .fold || before.contains x.kind

/-- The walk of R4 over the steps that are left, from index i: the index of the first bad one. -/
def walkSteps (pages : Nat) : Nat → List StepKind → List (Option Step) → Option Nat
  | _, _, [] => none
  | i, before, x :: rest =>
    if badStep pages before rest.isEmpty x then some i
    else
      match x with
      | some y => walkSteps pages (i + 1) (before ++ [y.kind]) rest
      | none => some i

/-- Whether a step is a FOLD step. -/
def isFold : Option Step → Bool
  | some (.fold _) => true
  | _ => false

/-- Whether a step is a ROUTE step. -/
def isRoute : Option Step → Bool
  | some (.route _) => true
  | _ => false

/-- The index of the first bad step of a program, none when it is valid (R4). -/
def programFault (pages : Nat) (steps : List (Option Step)) : Option Nat :=
  match walkSteps pages 1 [] steps with
  | some i => some i
  | none =>
    match steps.getLast? with
    | some x =>
      if !isRoute x then some steps.length
      else if !(steps.any isFold) && decide (60 < pages) then some steps.length
      else none
    | none => some 0

/-- A step with its argument clamped by R3. -/
def Step.clamped : Step → Step
  | .hold t => .hold (clampHold t)
  | x => x

/-- Whether a step's argument is outside its range (R3). -/
def Step.clamps : Step → Bool
  | .hold t => clampHold t != t
  | _ => false

/-- The record that a descriptor creates (Table 1-1, R11). -/
def Descriptor.record (d : Descriptor) : SetRec :=
  { number := d.number
    jobId := d.jobId
    pages := d.pages
    priority := clampPriority d.priority
    program := (d.steps.filterMap id).map Step.clamped }

/-- The list of clamped fields of a set request's reply: priority and HOLD timeout, in that order (R11, R13). -/
def clampedList (priority hold : Bool) : List Byte :=
  listBytes (fun b => [b])
    ((if priority then [Config.clampedPriorityCode] else []) ++ if hold then [Config.clampedHoldCode] else [])

/-! ### The descriptor of a record (R5, R16) -/

/-- A step as a descriptor carries it (Table 1-4). -/
def stepBytes : Step → List Byte
  | .jog => byte 1 :: leBytes 2 0
  | .hold t => byte 2 :: leBytes 2 t
  | .await => byte 3 :: leBytes 2 0
  | .fold k => byte 4 :: leBytes 2 k.code
  | .route r => byte 5 :: leBytes 2 r.code

/-- The descriptor of a record, with its present values (R5). -/
def descriptorBytes (r : SetRec) : List Byte :=
  leBytes 4 r.number ++ leBytes 2 r.jobId ++
    [byte r.pages, byte r.priority, byte r.program.length] ++ (r.program.map stepBytes).flatten

/-- A record as QUERY SET and TAKE COMPLETION return it (R16). -/
def recordBytes (r : SetRec) : List Byte :=
  descriptorBytes r ++ [byte r.state.code, byte r.pagesRead, byte r.pagesArrived, flagByte r.readComplete] ++
    listBytes (fun k : StepKind => [byte k.code]) r.stepsPassed ++
    [flagByte r.skewed, flagByte r.preReleased, flagByte r.reported] ++
    optBytes (fun c : SetCause => [byte c.code]) r.cause ++ optBytes (fun i => [byte i]) r.failingStep ++
    optBytes (fun c => [byte c]) r.refuseCode

/-! ### AMEND SET (R12, R13) -/

/-- The hold field of AMEND SET: its action byte and timeout. -/
structure HoldField where
  action : Nat
  timeout : Nat
  deriving DecidableEq, Repr, Inhabited

/-- The five optional fields of AMEND SET as received (Table 10-8). -/
structure Amendment where
  priority : Option Nat
  pages : Option Nat
  fold : Option Nat
  hold : Option HoldField
  route : Option Nat
  deriving DecidableEq, Repr, Inhabited

/-- An optional field of `width` bytes at the head of a body: its bytes when present, and the rest; none when the
presence byte is not 0 or 1 or the body is too short (R176). -/
def takeOptional (width : Nat) : List Byte → Option (Option (List Byte) × List Byte)
  | [] => none
  | p :: rest =>
    if p = 0 then some (none, rest)
    else if p = 1 ∧ width ≤ rest.length then some (some (rest.take width), rest.drop width)
    else none

/-- The five optional fields after the set number (Table 10-8); none when the body does not fit the layout. -/
def parseAmendment (body : List Byte) : Option Amendment :=
  match takeOptional 1 body with
  | none => none
  | some (priority, b1) =>
    match takeOptional 1 b1 with
    | none => none
    | some (pages, b2) =>
      match takeOptional 1 b2 with
      | none => none
      | some (fold, b3) =>
        match takeOptional 3 b3 with
        | none => none
        | some (hold, b4) =>
          match takeOptional 1 b4 with
          | some (route, []) =>
            some
              { priority := priority.map leNat
                pages := pages.map leNat
                fold := fold.map leNat
                hold := hold.map fun b => { action := leNat (b.take 1), timeout := leNat (b.drop 1) }
                route := route.map leNat }
          | _ => none

/-- A hold field's action as AMEND SET carries it out. -/
inductive HoldAction where
  /-- ADD, with the timeout clamped by R3 -/
  | add (timeout : Nat)
  | remove
  deriving DecidableEq, Repr, Inhabited

/-- The action of a hold field: 0 ADD, 1 REMOVE (Table 10-8). -/
def HoldField.toAction (h : HoldField) : Option HoldAction :=
  match h.action with
  | 0 => some (.add (clampHold h.timeout))
  | 1 => some .remove
  | _ => none

/-- An amendment whose values are ones R12 check 2 admits. -/
structure Amend where
  priority : Option Nat
  pages : Option Nat
  fold : Option FoldKind
  hold : Option HoldAction
  route : Option Route
  deriving DecidableEq, Repr, Inhabited

/-- Whether a field of a given value, once read, is admitted: absent, or read to something. -/
def admitted {α β : Type} (read : α → Option β) : Option α → Bool
  | none => true
  | some x => (read x).isSome

/-- The amendment with its values read, or none where R12 check 2 gives BAD_FIELD. -/
def Amendment.read (a : Amendment) : Option Amend :=
  if a.pages != some 0 && admitted FoldKind.ofCode a.fold && admitted HoldField.toAction a.hold
      && admitted Route.ofCode a.route then
    some
      { priority := a.priority.map clampPriority
        pages := a.pages
        fold := a.fold.bind FoldKind.ofCode
        hold := a.hold.bind HoldField.toAction
        route := a.route.bind Route.ofCode }
  else none

/-- The timeout of a program's HOLD step. -/
def holdOf : List Step → Option Nat
  | [] => none
  | .hold t :: _ => some t
  | _ :: rest => holdOf rest

/-- Whether a program has a FOLD step. -/
def hasFold (program : List Step) : Bool := program.any fun x => x.kind == .fold

/-- The fold kind merged into a program (R13). -/
def mergeFold (k : FoldKind) (program : List Step) : List Step :=
  if hasFold program then program.map fun x => match x with | .fold _ => .fold k | y => y
  else
    match k with
    | .none => program
    | _ => (program.takeWhile fun x => x.kind != .route) ++ .fold k :: program.dropWhile fun x => x.kind != .route

/-- The hold field merged into a program (R13): ADD replaces the timeout, or inserts a HOLD step after the last
accumulator step; REMOVE deletes it. -/
def mergeHold (h : HoldAction) (program : List Step) : List Step :=
  match h with
  | .remove => program.filter fun x => x.kind != .hold
  | .add t =>
    match holdOf program with
    | some _ => program.map fun x => match x with | .hold _ => .hold t | y => y
    | none =>
      (program.takeWhile fun x => x.kind.atAccumulator) ++ .hold t ::
        program.dropWhile fun x => x.kind.atAccumulator

/-- The route merged into a program (R13). -/
def mergeRoute (r : Route) (program : List Step) : List Step :=
  program.map fun x => match x with | .route _ => .route r | y => y

/-- A value merged when it is supplied. -/
def mergeOpt {α β : Type} (f : α → β → β) (x : Option α) (b : β) : β :=
  match x with
  | none => b
  | some a => f a b

/-- The copy of a record with an amendment merged into it (R13). -/
def Amend.merge (a : Amend) (r : SetRec) : SetRec :=
  { r with
    priority := a.priority.getD r.priority
    pages := a.pages.getD r.pages
    program := mergeOpt mergeRoute a.route (mergeOpt mergeHold a.hold (mergeOpt mergeFold a.fold r.program)) }

/-- Whether only the priority of a set in this state may change, or the hold and route too, or every field
(Table 1-7). -/
def SetState.mayAmendPages (x : SetState) : Bool := x == .pending
/-- Whether the hold and route of a set in this state may change (Table 1-7). -/
def SetState.mayAmendRoute (x : SetState) : Bool := x == .pending || x == .active || x == .collected

/-- Whether a supplied field would change the program of a record (R12). -/
def changesProgram {α : Type} (merge : α → List Step → List Step) (x : Option α) (r : SetRec) : Bool :=
  match x with
  | none => false
  | some a => merge a r.program != r.program

/-- Whether an amendment is refused WRONG_STATE (R12 check 3): the set is terminal, or a supplied field that Table 1-7
does not permit in its state would change the record. -/
def Amend.wrongState (a : Amend) (r : SetRec) : Bool :=
  r.state.terminal
    || (!r.state.mayAmendPages && (decide (a.pages.getD r.pages ≠ r.pages) || changesProgram mergeFold a.fold r))
    || (!r.state.mayAmendRoute && (changesProgram mergeHold a.hold r || changesProgram mergeRoute a.route r))

/-! ### The web profile (R45, R46) -/

/-- A value clamped into a range. -/
def clampTo (lo hi x : Nat) : Nat := if x < lo then lo else if x > hi then hi else x

/-- The profile that a body carries, clamped by R46, and the codes of the clamped values in the order of Table 3-5; none
when the body is not a whole profile or a code is neither 0 nor 1 (R45 check 4). -/
def parseProfile (body : List Byte) : Option (Profile × List Nat) :=
  match body with
  | [f0, f1, t0, t1, o0, o1, layout, order, m0, m1, k0, k1, strict] =>
    if layout.toNat ≤ 1 ∧ order.toNat ≤ 1 ∧ strict.toNat ≤ 1 then
      let fl := leNat [f0, f1]
      let tol := leNat [t0, t1]
      let off := leNat [o0, o1]
      let skew := leNat [k0, k1]
      let fl' := clampTo 1000 6100 fl
      let tol' := clampTo 5 500 tol
      let off' := clampTo 0 (fl' - 400) off
      let skew' := clampTo 0 400 skew
      some
        ({ formLength := fl'
           tol := tol'
           markOffset := off'
           layout := if layout = 0 then .oneUp else .twoUp
           order := if order = 0 then .leftFirst else .rightFirst
           mergeOffset := leNat [m0, m1]
           skew := skew'
           strict := strict != 0 },
         (if fl' = fl then [] else [0]) ++ (if tol' = tol then [] else [1]) ++ (if off' = off then [] else [2])
           ++ if skew' = skew then [] else [6])
    else none
  | _ => none

/-- The code of MO in Table 3-5's order. -/
def mergeOffsetCode : Nat := 5

/-! ### The station geometry (R33, R34) -/

/-- One entry of a LOAD GEOMETRY body: a value code and a value. -/
structure GeometryEntry where
  code : Nat
  value : Nat
  deriving DecidableEq, Repr, Inhabited

/-- The entries of a LOAD GEOMETRY body, 3 bytes each. -/
def geometryEntries : Nat → List Byte → List GeometryEntry
  | n + 1, c :: a :: b :: rest => { code := c.toNat, value := leNat [a, b] } :: geometryEntries n rest
  | _, _ => []

/-- Whether no code stands twice. -/
def distinctCodes (xs : List GeometryEntry) : Bool := decide (xs.map GeometryEntry.code).Nodup

/-- The body of LOAD GEOMETRY (Table 10-8): none when it is not a whole list, names a value that is not in Table 2-3 or
the short jog time, or names one twice (R33 check 4). -/
def parseGeometry (body : List Byte) : Option (List GeometryEntry) :=
  match body with
  | [] => none
  | n :: rest =>
    let es := geometryEntries n.toNat rest
    if rest.length = 3 * n.toNat ∧ distinctCodes es = true ∧ (es.all fun e => decide (e.code ≤ 16)) = true then some es
    else none

/-- The lower and upper bound a value is clamped into (Table 2-3, R34 step 1). The lower bounds of Dg and Da are not
clamped: they are the ordering checks. -/
def geometryRange : Nat → Nat × Nat
  | 0 => (200, 8000)
  | 1 => (0, 20000)
  | 2 => (0, 30000)
  | 3 => (0, 1000)
  | 4 => (0, 20000)
  | 5 => (0, 20000)
  | 6 => (0, 200)
  | 7 => (0, 500)
  | 8 => (20, 2000)
  | 9 => (100, 20000)
  | 10 => (50, 2000)
  | 11 => (10, 100)
  | 12 => (0, 1000)
  | 13 => (200, 5000)
  | 14 => (50, 2000)
  | 15 => (500, 10000)
  | _ => (100, 30000)

/-- A value clamped into its range (R34 step 1). -/
def clampGeometry (code x : Nat) : Nat := clampTo (geometryRange code).1 (geometryRange code).2 x

/-- A value of the geometry replaced, by its code (Table 10-8). -/
def Geometry.put (g : Geometry) (code x : Nat) : Geometry :=
  match code with
  | 0 => { g with readerToKnife := x }
  | 1 => { g with readerToGate := x }
  | 2 => { g with readerToAcc := x }
  | 3 => { g with gateAdvance := x }
  | 4 => { g with knifeLead := x }
  | 5 => { g with gateLead := x }
  | 6 => { g with knifeLateTol := x }
  | 7 => { g with gateLateTol := x }
  | 8 => { g with arrivalTol := x }
  | 9 => { g with stopping := x }
  | 10 => { g with jogInterval := x }
  | 11 => { g with fullJog := x }
  | 12 => { g with jogMargin := x }
  | 13 => { g with foldTimeout := x }
  | 14 => { g with actuatorTimeout := x }
  | 15 => { g with beltTravel := x }
  | 16 => { g with offerTimeout := x }
  | _ => g

/-- The geometry with the named values merged and clamped (R34 step 1). -/
def mergeGeometry (g : Geometry) (es : List GeometryEntry) : Geometry :=
  es.foldl (fun g e => g.put e.code (clampGeometry e.code e.value)) g

/-- The codes of the values that were clamped, in the order of Table 2-3 (R34 step 3). -/
def clampedGeometry (es : List GeometryEntry) : List Nat :=
  ascending ((es.filter fun e => clampGeometry e.code e.value != e.value).map GeometryEntry.code)

/-- The code of the value that fails the ordering check: Dg 1 or Da 2 (R34 step 2). R34 names one value and gives no order
between the two checks; where both fail the model names Dg (DESIGN CHOICE, assumption 33). -/
def geometryDisorder (g : Geometry) : Option Nat :=
  if g.readerToGate < g.readerToKnife then some 1
  else if g.readerToAcc < g.readerToGate + 100 then some 2
  else none

/-- A list of value names as a reply carries it (R172). -/
def codeList (xs : List Nat) : List Byte := listBytes (fun n => [byte n]) xs

end Sys2Proof.Machine
end

