-- ==== Sys2Proof/Machine/Taking.lean ====
section
/-! DEFINITION. Taking a request and answering it (R174, R175), and the data of the reading requests (R61, R169,
R180). -/

namespace Sys2Proof.Machine

/-- What an owning rule answers: a result code, then detail and data (R175). -/
structure Reply where
  result : Result
  data : List Byte
  deriving DecidableEq, Repr, Inhabited

/-- A reply with no detail or data. -/
def Reply.plain (r : Result) : Reply := { result := r, data := [] }

/-- Whether a reply is still to be sent whole on a port (R174). -/
def PortState.replying (ps : PortState) : Bool := ps.tx.any fun f => f.kind == replyKind

/-- The request that port p takes next: the head of its queue, when no reply is still to be sent (R174). -/
def State.takeable (s : State) (p : Port) : Option Request :=
  if (s.port p).replying then none else (s.port p).queue.head?

/-- The head of the queue is removed (R174). -/
def popRequest (p : Port) (s : State) : State := s.setPort p { s.port p with queue := (s.port p).queue.tail }

/-- The reply frame of a request: the head of Table 10-2 with the top condition as it stands, then detail and data
(R175). -/
def replyFrame (s : State) (p : Port) (kind : Byte) (r : Reply) : TxFrame :=
  { kind := replyKind, body := kind :: byte r.result.code :: (topBytes s p ++ r.data) }

/-- A request is answered: the event is settled, the reply is produced, and the notices follow it (R175, R177). -/
def answer (p : Port) (kind : Byte) (r : Reply) (s : State) : State :=
  let s := settle s
  (flushNotices (produce p (replyFrame s p kind r) s)).setEv Event.none

/-- What an owning rule does with the body of a request. -/
abbrev Rule := List Byte → State → State × Reply

/-- A taken request of a kind of its port is decided by R175: overrun, the sweep, the owning rule. -/
def decideRequest (p : Port) (k : RequestKind) (rule : Rule) (r : Request) (s : State) : State :=
  if r.overrun then answer p r.kind (.plain .overrun) s
  else if s.line.sweep && k != .readStatus then answer p r.kind (.plain .busy) s
  else
    let d := rule r.body s
    answer p r.kind d.2 d.1

/-- Port p takes a request of kind k (R174, R175): the head of its queue, when it is one and no reply is still to be
sent. Where no such request can be taken the command has nothing to act on and the state stays as it is. -/
def takeRequest (p : Port) (k : RequestKind) (rule : Rule) (s : State) : State :=
  match s.takeable p with
  | some r =>
    if requestKindOn p r.kind = some k then decideRequest p k rule r (popRequest p s).begin else s
  | none => s

/-- Port p takes a request whose kind is not a request kind of that port (R175 steps 1 and 2). -/
def takeUndefined (p : Port) (s : State) : State :=
  match s.takeable p with
  | some r =>
    match requestKindOn p r.kind with
    | none => answer p r.kind (.plain (if r.overrun then .overrun else .notAllowed)) (popRequest p s).begin
    | some _ => s
  | none => s

/-- A rule for a request with an empty body (Table 10-8): any other body is BAD_FIELD (R176). -/
def withEmptyBody (rule : State → State × Reply) : Rule := fun body s =>
  match body with
  | [] => rule s
  | _ => (s, .plain .badField)

/-- A rule for a request whose body is a set number (Table 10-8): any other body is BAD_FIELD (R176). -/
def withSetNumber (rule : Nat → State → State × Reply) : Rule := fun body s =>
  match parseSetNumber body with
  | some n => rule n s
  | none => (s, .plain .badField)

/-! ### The data of the reading requests -/

/-- The ten counters in the order of R167 (R169). -/
def tallyBytes (t : Tally) : List Byte :=
  ([t.rowsRead, t.sheetsTracked, t.marksCorrected, t.sheetsUnread, t.lateFirings, t.setsDelivered, t.setsDiverted,
    t.folds, t.runTime, t.holdTime].map (leBytes 4)).flatten

/-- The Mark Capture record, each field that may be absent with its presence byte (R61). -/
def captureBytes (c : Capture) : List Byte :=
  byte c.severity.code :: (optBytes (fun l => [byte (laneCode l)]) c.lane ++
    optBytes (fun e : Pos => leBytes 4 e.toNat) c.row ++ optBytes (fun n => [byte n]) c.syndrome ++
    optBytes (fun b => [flagByte b]) c.parityOdd ++ optBytes (leBytes 2) c.tag)

/-- A fold result, NONE as absent (R180). -/
def foldResultBytes : Option FoldResult → List Byte :=
  optBytes fun r => leBytes 4 r.number ++ [byte (outcomeCode r.pass)]

/-- The last handed-over set with its freed mark and fold kind (R180). -/
def handedBytes : Option HandedOver → List Byte :=
  optBytes fun h => leBytes 4 h.number ++ [flagByte h.freed, byte h.kind.code]

/-- The items of Table 10-7 that the blocks hold, from a view v of them. -/
def blockItems (v : State) : List Byte :=
  [byte v.line.holds.code] ++ optBytes (fun c : LineCause => [byte c.code]) v.line.record.cause ++
    optBytes (leBytes 4) v.line.record.set ++ [flagByte v.line.record.further, byte v.reader.state.code] ++
    [byte v.acc.state.code] ++ optBytes (leBytes 4) v.acc.held ++ [byte v.acc.sheets, byte v.acc.obligation.code] ++
    [byte v.folder.state.code] ++ optBytes (leBytes 4) v.folder.set ++ foldResultBytes v.folder.last ++
    foldResultBytes v.folder.previous ++ handedBytes v.folder.handed ++ [byte v.belt.queue.length] ++
    optBytes (leBytes 4) v.belt.offered ++
    [byte v.table.records.length, byte v.table.completion.length, byte v.table.reprint.length]

/-- The status of Table 10-7, in its order: the blocks' items from a view v, the rest as it stands (R180). -/
def statusBytes (v s : State) (p : Port) : List Byte :=
  [byte s.line.state.code] ++ blockItems v ++ [byte s.web.speed] ++ leBytes 4 s.web.position.toNat ++
    [flagByte s.web.reverse, flagByte s.web.speedHigh, byte s.line.guard.code, byte v.belt.readiness.code] ++
    [byte s.links.job.link.code, byte s.links.line.link.code, byte s.links.delivery.link.code] ++
    listBytes (condBytes s) (s.port p).conds

/-- What READ STATUS shows of the blocks: the blocks as they stand, or while the sweep runs what the sweep has left of
them so far, a free value, beside the fault record that R165 and R180 give (assumption 6). -/
def statusView (s : State) : State :=
  if s.line.sweep then
    let v := Config.sweepView s.choices
    v.setLine { v.line with record := s.line.record }
  else s

/-- READ STATUS (R180): it changes nothing. -/
def readStatusRule (p : Port) : Rule := withEmptyBody fun s =>
  (if s.line.sweep then s.drawn else s, { result := .done, data := statusBytes (statusView s) s p })

/-- READ TALLY (R169): it changes nothing. -/
def readTallyRule : Rule := withEmptyBody fun s => (s, { result := .done, data := tallyBytes s.line.tally })

/-- READ CAPTURE (R61): it changes nothing. -/
def readCaptureRule : Rule := withEmptyBody fun s => (s, { result := .done, data := captureBytes s.reader.capture })

/-! ### Clearing conditions (R179) -/

/-- The level conditions of port p whose cause persists, each with its present parameter (R179). -/
def persisting (s : State) (p : Port) : List PendingCond :=
  match p with
  | .job =>
    (if s.table.reprint.isEmpty then [] else [{ cond := .reprintReady, param := .none }]) ++
      if s.table.completion.isEmpty then [] else [{ cond := .completionReady, param := .none }]
  | .line =>
    match s.line.state, s.line.record.cause with
    | .faulted, some c => [{ cond := .lineFault, param := .lineCause c }]
    | _, _ => []
  | .delivery =>
    match s.belt.offered with
    | some n => [{ cond := .offer, param := .setNumber n }]
    | none => []

/-- The level conditions of port p whose cause persists become pending again where they are not pending (R171,
R179). -/
def relatch (p : Port) (s : State) : State :=
  (persisting s p).foldl (fun s x => if s.isPending x.cond then s else raiseCond x.cond x.param s) s

/-- The conditions that codes name on port p; none when a code is no condition of the port (R179). -/
def namedConds (p : Port) : List Nat → Option (List Cond)
  | [] => some []
  | n :: rest =>
    match Cond.ofCode p n, namedConds p rest with
    | some c, some cs => some (c :: cs)
    | _, _ => none

/-- The level conditions (Table 10-4). -/
def Cond.level : Cond → Bool
  | .reprintReady | .completionReady | .lineFault | .offer => true
  | _ => false

/-- The named conditions are removed, and each removed level condition whose cause persists becomes pending again
(R179). -/
def clearConds (p : Port) (cs : List Cond) (s : State) : State :=
  let removed := fun c => decide (c ∈ cs) && s.isPending c
  let s' := cs.foldl (fun s c => removeCond c s) s
  ((persisting s' p).filter fun x => removed x.cond).foldl (fun s x => raiseCond x.cond x.param s) s'

/-- CLEAR CONDITION on port p (R179). -/
def clearConditionRule (p : Port) : Rule := fun body s =>
  match parseClear body with
  | none => (s, .plain .badField)
  | some codes =>
    match namedConds p codes with
    | none => (s, .plain .badField)
    | some cs => (clearConds p cs s, .plain .done)

end Sys2Proof.Machine
end

