-- ==== Sys2Proof/Machine/Clock.lean ====
section
/-! DEFINITION. What happens while no command waits: the ports take requests as soon as they may (R174), and else one
microsecond passes, in which the timers count down, the tally's times count (R168) and the ports send (R170, R177).
What falls due becomes a waiting command. -/

namespace Sys2Proof.Machine

/-! ### Taking requests -/

/-- The command by which port p takes a request of a kind. -/
def takeCommand (p : Port) : RequestKind → Instr
  | .loadProfile => .loadProfile
  | .loadSet => .loadSet
  | .amendSet => .amendSet
  | .cancelSet => .cancelSet
  | .releaseSet => .releaseSet
  | .querySet => .querySet
  | .takeCompletion => .takeCompletion
  | .takeReprint => .takeReprint
  | .loadGeometry => .loadGeometry
  | .start => .start
  | .stop => .stop
  | .purge => .purge
  | .resetLine => .resetLine
  | .clearCapture => .clearCapture
  | .clearTally => .clearTally
  | .setReady => .setReady
  | .setNotReady => .setNotReady
  | .accept => .accept
  | .refuse => .refuse
  | .readStatus => .readStatus p
  | .readTally => .readTally p
  | .readCapture => .readCapture p
  | .clearCondition => .clearCondition p

/-- The command by which port p takes the request at the head of its queue, when it may take one (R174, R175). -/
def takingOf (s : State) (p : Port) : List Instr :=
  match s.takeable p with
  | none => []
  | some r =>
    match requestKindOn p r.kind with
    | some k => [takeCommand p k]
    | none => [.undefinedRequestKind p]

/-- The takings of the three ports, which have no order among them (R174). -/
def takings (s : State) : List Instr := takingOf s .job ++ takingOf s .line ++ takingOf s .delivery

/-! ### One microsecond -/

/-- A running timer counts down. -/
def tickTimer : Timer → Timer
  | some (n + 1) => some n
  | t => t

/-- A command for a timer that has run out. -/
def whenOut (t : Timer) (c : Instr) : List Instr := if t = some 0 then [c] else []

/-- The Accumulator Controller's timers. -/
def Accumulator.tick (a : Accumulator) : Accumulator :=
  { a with
    jogInterval := tickTimer a.jogInterval
    holdTimer := tickTimer a.holdTimer
    jogTimeout := tickTimer a.jogTimeout
    releaseTimeout := tickTimer a.releaseTimeout
    dumpTimeout := tickTimer a.dumpTimeout }

/-- The Delivery Controller's timers. -/
def Delivery.tick (b : Delivery) : Delivery :=
  { b with
    travel := tickTimer b.travel
    gateTimeout := tickTimer b.gateTimeout
    offerTimer := tickTimer b.offerTimer }

/-- µs in a ms. -/
def msLength : Nat := 1000

/-- The run time of a RUNNING line (R168). -/
def Supervisor.tickRun (l : Supervisor) : Supervisor :=
  if l.runFraction + 1 < msLength then { l with runFraction := l.runFraction + 1 }
  else { l with runFraction := 0, tally := l.tally.ran }

/-- The hold time while HOLD is asserted (R168). -/
def Supervisor.tickHold (l : Supervisor) : Supervisor :=
  if l.holdFraction + 1 < msLength then { l with holdFraction := l.holdFraction + 1 }
  else { l with holdFraction := 0, tally := l.tally.held }

/-- Run time and hold time (R168). -/
def Supervisor.tick (l : Supervisor) (permit hold : Bool) : Supervisor :=
  let l := if permit then l.tickRun else l
  if hold then l.tickHold else l

/-- Bytes sent in 1,000,000 µs: 230,400 bit/s at 10 bit times a byte (R170). -/
def byteRate : Nat := 23040

/-- µs of the byte rate. -/
def byteRateTime : Nat := 1000000

/-- A byte of the first frame has been sent; a frame sent whole leaves (R177). -/
def PortState.sentByte (ps : PortState) (f : TxFrame) : PortState :=
  if ps.txSent + 1 < (frameBytes f).length then { ps with txSent := ps.txSent + 1 }
  else { ps with tx := ps.tx.tail, txSent := 0 }

/-- A µs of sending (R170, R177). -/
def PortState.tickTx (ps : PortState) : PortState :=
  match ps.tx with
  | [] => { ps with txPhase := 0 }
  | f :: _ =>
    if ps.txPhase + byteRate < byteRateTime then { ps with txPhase := ps.txPhase + byteRate }
    else { ps with txPhase := ps.txPhase + byteRate - byteRateTime }.sentByte f

/-- A µs of the frame in progress (R173). -/
def RxFrame.tick (f : RxFrame) : RxFrame := { f with timer := f.timer - 1 }

/-- A µs of a port. -/
def PortState.tick (ps : PortState) : PortState := { ps.tickTx with rx := ps.rx.map RxFrame.tick }

/-- s one µs later. -/
def State.ticked (s : State) : State :=
  { s with
    links := { job := s.links.job.tick, line := s.links.line.tick, delivery := s.links.delivery.tick }
    web := { s.web with toUpdate := s.web.toUpdate - 1 }
    acc := s.acc.tick
    folder := { s.folder with timer := tickTimer s.folder.timer }
    belt := s.belt.tick
    line := s.line.tick s.permit s.holdLine }

/-- The frames whose 10 ms are over (R173). -/
def overdueFrame (s : State) (p : Port) : List Instr :=
  match (s.port p).rx with
  | some f => if f.timer = 0 then [.frameTimeout p] else []
  | none => []

/-- The commands of what has run out: each timer, the frames, the speed update (R27). -/
def dueCommands (s : State) : List Instr :=
  whenOut s.acc.jogInterval .jogIntervalExpiry ++ whenOut s.acc.holdTimer .holdTimerExpiry ++
    whenOut s.acc.jogTimeout .jogTimeout ++ whenOut s.acc.releaseTimeout .releaseTimeout ++
    whenOut s.acc.dumpTimeout .dumpTimeout ++ whenOut s.folder.timer .foldTimerExpiry ++
    whenOut s.belt.travel .beltTravelExpiry ++ whenOut s.belt.gateTimeout .beltGateTimeout ++
    whenOut s.belt.offerTimer .offerTimerExpiry ++ overdueFrame s .job ++ overdueFrame s .line ++
    overdueFrame s .delivery ++ if s.web.toUpdate = 0 then [.speedUpdate] else []

/-! ### The step without a command -/

/-- Commands put in the empty queue, in a free order where there is more than one (assumption 7). -/
def schedule (cs : List Instr) (s : State) : State :=
  match cs with
  | [] => { s with pending := [] }
  | [c] => { s with pending := [c] }
  | _ => { s.drawn with pending := arrange s cs }

/-- One µs passes. -/
def passTime (s : State) : State := schedule (dueCommands s.ticked) s.ticked

/-- What the part does while no command waits. -/
def idle (s : State) : State :=
  match takings s with
  | [] => passTime s
  | cs => schedule cs s

end Sys2Proof.Machine
end

