-- ==== Sys2Proof/Machine/JobRequests.lean ====
section
/-! DEFINITION. The requests of the job port: the web profile and the set requests (chapters 1 and 3). -/

namespace Sys2Proof.Machine

/-- Whether a set stands in ACTIVE through REJECTING (R33, R45). -/
def setsInMachine (s : State) : Bool := s.table.records.any fun r => r.state.inMachine

/-- The checks that LOAD PROFILE and LOAD GEOMETRY share, in order (R33 and R45 checks 2 and 3): none when both pass. -/
def loadRefusal (s : State) : Option Result :=
  if s.stationBusy then some .busy
  else if s.line.state = .running ∨ setsInMachine s = true then some .inMachine
  else none

/-- DONE, or DONE_CLAMPED with the names of the clamped values (R34, R46). -/
def clampedReply (codes : List Nat) : Reply :=
  match codes with
  | [] => .plain .done
  | _ => { result := .doneClamped, data := codeList codes }

/-- A profile is installed and the Mark Reader enters HUNT; the reference and the orphan-run flag are reset (R46, R47,
R89). -/
def installProfile (p : Profile) (s : State) : State :=
  let s := enterHunt (s.setTable { s.table with profile := p, profileLoaded := true })
  (s.setRef .none).setOrphanRun false

/-- LOAD PROFILE (R45, R46). -/
def loadProfileRule : Rule := fun body s =>
  match loadRefusal s with
  | some r => (s, .plain r)
  | none =>
    match parseProfile body with
    | none => (s, .plain .badField)
    | some (p, codes) =>
      if p.formLength ≤ p.mergeOffset then (s, { result := .badField, data := [byte mergeOffsetCode] })
      else (installProfile p s, clampedReply codes)

/-- The Set Table holds at most 64 records (R2). -/
def tableCapacity : Nat := 64

/-- DONE, or DONE_CLAMPED with the clamped fields of a set request (R11, R13). -/
def setReply (priority hold : Bool) : Reply :=
  if priority || hold then { result := .doneClamped, data := clampedList priority hold } else .plain .done

/-- LOAD SET (R11). -/
def loadSetRule : Rule := fun body s =>
  if tableCapacity ≤ s.table.records.length then (s, .plain .tableFull)
  else
    match parseDescriptor body with
    | none => (s, .plain .badField)
    | some d =>
      if (s.findSet d.number).isSome then (s, .plain .setExists)
      else if (s.findTag d.record.tag).isSome then (s, .plain .tagInUse)
      else
        match programFault d.pages d.steps with
        | some i => (s, { result := .programInvalid, data := [byte i] })
        | none =>
          (s.setTable { s.table with records := s.table.records ++ [d.record] },
           setReply (decide (7 < d.priority)) ((d.steps.filterMap id).any Step.clamps))

/-- The held set's program was amended while it is COLLECTED: its next step is taken (R111). -/
def afterAmend (s : State) : State := goOn s

/-- Whether an amendment's priority was clamped (R13). -/
def Amendment.clampsPriority (a : Amendment) : Bool :=
  match a.priority with
  | some p => decide (7 < p)
  | none => false

/-- Whether an amendment's HOLD timeout was clamped (R3, R13). -/
def Amendment.clampsHold (a : Amendment) : Bool :=
  match a.hold with
  | some h => h.action == 0 && clampHold h.timeout != h.timeout
  | none => false

/-- An amendment of record r taken (R12 checks 3 and 4, R13). -/
def amendRecord (r : SetRec) (raw : Amendment) (a : Amend) (s : State) : State × Reply :=
  if a.wrongState r then (s, .plain .wrongState)
  else
    let merged := a.merge r
    match programFault merged.pages (merged.program.map some) with
    | some i => (s, { result := .programInvalid, data := [byte i] })
    | none =>
      let s' := updateSet r.number a.merge s
      (if r.state = .collected ∧ s.acc.held = some r.number ∧ merged.program ≠ r.program then afterAmend s' else s',
       setReply raw.clampsPriority raw.clampsHold)

/-- AMEND SET (R12, R13, R176). -/
def amendSetRule : Rule := fun body s =>
  if body.length < 4 then (s, .plain .badField)
  else
    match s.findSet (leNat (body.take 4)) with
    | none => (s, .plain .noSuchSet)
    | some r =>
      match parseAmendment (body.drop 4) with
      | none => (s, .plain .badField)
      | some raw =>
        match raw.read with
        | none => (s, .plain .badField)
        | some a => amendRecord r raw a s

/-- CANCEL SET (R14). -/
def cancelSetRule : Rule := withSetNumber fun n s =>
  match s.setState n with
  | none => (s, .plain .noSuchSet)
  | some .pending => (makeTerminal n .cancelled s, .plain .done)
  | some x => if x.terminal then (s, .plain .wrongState) else (s, .plain .inMachine)

/-- RELEASE SET ends a hold (R15 step 4): the hold timer stops, HOLD is passed, the set returns to COLLECTED and its
remaining steps continue. -/
def endHold (n : Nat) (s : State) : State :=
  goOn (updateSet n (SetRec.finish .hold) (s.setAcc { s.acc with holdTimer := none }))

/-- Whether RELEASE SET pre-releases a set (R15 step 5). -/
def SetRec.preReleasable (r : SetRec) : Bool :=
  match r.state with
  | .pending | .active => true
  | .collected => !(r.stepsPassed.contains .hold)
  | _ => false

/-- RELEASE SET (R15). -/
def releaseSetRule : Rule := withSetNumber fun n s =>
  match s.findSet n with
  | none => (s, .plain .noSuchSet)
  | some r =>
    if r.cause = some .holdExpired then (s, .plain .tooLate)
    else if (holdOf r.program).isNone then (s, .plain .notHeld)
    else if r.state = .held then (endHold n s, .plain .done)
    else if r.preReleasable then (updateSet n (fun r => { r with preReleased := true }) s, .plain .done)
    else (s, .plain .notHeld)

/-- QUERY SET (R16): it changes nothing. -/
def querySetRule : Rule := withSetNumber fun n s =>
  match s.findSet n with
  | none => (s, .plain .noSuchSet)
  | some r => (s, { result := .done, data := recordBytes r })

/-- The head of the Completion Order, set n, is removed and its record reported (R17). -/
def reportHead (n : Nat) (s : State) : State :=
  updateSet n (fun r => { r with reported := true })
    (s.setTable { s.table with completion := s.table.completion.tail })

/-- TAKE COMPLETION (R17). -/
def takeCompletionRule : Rule := withEmptyBody fun s =>
  match s.table.completion with
  | [] => (s, .plain .none)
  | n :: _ =>
    let s' := reportHead n s
    match s'.findSet n with
    | none => (s', .plain .none)
    | some r => (freeIfDone n s', { result := .done, data := recordBytes r })

/-- What TAKE REPRINT returns of a record: set number, job id, declared pages and fault cause (R18). -/
def reprintBytes (r : SetRec) : List Byte :=
  leBytes 4 r.number ++ leBytes 2 r.jobId ++ byte r.pages :: optBytes (fun c : SetCause => [byte c.code]) r.cause

/-- TAKE REPRINT (R18). -/
def takeReprintRule : Rule := withEmptyBody fun s =>
  match s.table.reprint with
  | [] => (s, .plain .none)
  | n :: rest =>
    let s := s.setTable { s.table with reprint := rest }
    match s.findSet n with
    | none => (s, .plain .none)
    | some r => (freeIfDone n s, { result := .done, data := reprintBytes r })

/-- LOAD_PROFILE. -/
def execLoadProfile (s : State) : Host.Outcome State Fault Refusal :=
  .next (takeRequest .job .loadProfile loadProfileRule s)

/-- LOAD_SET. -/
def execLoadSet (s : State) : Host.Outcome State Fault Refusal := .next (takeRequest .job .loadSet loadSetRule s)

/-- AMEND_SET. -/
def execAmendSet (s : State) : Host.Outcome State Fault Refusal := .next (takeRequest .job .amendSet amendSetRule s)

/-- CANCEL_SET. -/
def execCancelSet (s : State) : Host.Outcome State Fault Refusal := .next (takeRequest .job .cancelSet cancelSetRule s)

/-- RELEASE_SET. -/
def execReleaseSet (s : State) : Host.Outcome State Fault Refusal :=
  .next (takeRequest .job .releaseSet releaseSetRule s)

/-- QUERY_SET. -/
def execQuerySet (s : State) : Host.Outcome State Fault Refusal := .next (takeRequest .job .querySet querySetRule s)

/-- TAKE_COMPLETION. -/
def execTakeCompletion (s : State) : Host.Outcome State Fault Refusal :=
  .next (takeRequest .job .takeCompletion takeCompletionRule s)

/-- TAKE_REPRINT. -/
def execTakeReprint (s : State) : Host.Outcome State Fault Refusal :=
  .next (takeRequest .job .takeReprint takeReprintRule s)

end Sys2Proof.Machine
end

