-- ==== Sys2Proof/Machine/LineRequests.lean ====
section
/-! DEFINITION. The requests of the line port (chapters 2, 3 and 9). -/

namespace Sys2Proof.Machine

/-- LOAD GEOMETRY (R33, R34). -/
def loadGeometryRule : Rule := fun body s =>
  match loadRefusal s with
  | some r => (s, .plain r)
  | none =>
    match parseGeometry body with
    | none => (s, .plain .badField)
    | some es =>
      let g := mergeGeometry s.line.geometry es
      match geometryDisorder g with
      | some code => (s, { result := .badField, data := [byte code] })
      | none => (s.setLine { s.line with geometry := g, geometryLoaded := true }, clampedReply (clampedGeometry es))

/-- The reverse flag and the speed-high latch are cleared (R28). -/
def clearFlags (s : State) : State := s.setWeb { s.web with reverse := false, speedHigh := false }

/-- A hunt under way starts afresh at P (R57). -/
def restartHunt (s : State) : State :=
  match s.reader.state with
  | .hunt => s.setReader { s.reader with huntStart := s.web.position }
  | .locked => s

/-- A granted START (R155): RUNNING, the speed flags cleared, the hunt started afresh in HUNT, and HOLD_CHANGED pending
when the hold-cause set is not empty. -/
def grantStart (s : State) : State :=
  let s' := restartHunt (clearFlags (s.setLine { s.line with state := .running }))
  if s.line.holds = HoldSet.none then s' else raiseCond .holdChanged (.holdSet s.line.holds) s'

/-- START (R155). -/
def startRule : Rule := withEmptyBody fun s =>
  if !(s.table.profileLoaded && s.line.geometryLoaded) then (s, .plain .notConfigured)
  else if s.line.guard = .opened then (s, .plain .guardOpen)
  else if s.line.state ≠ .stopped then (s, .plain .wrongState)
  else (grantStart s, .plain .done)

/-- STOP (R156). -/
def stopRule : Rule := withEmptyBody fun s =>
  if s.line.state = .running then
    (s.setLine { s.line with state := .stopped, stopPoint := s.web.position }, .plain .done)
  else (s, .plain .wrongState)

/-- PURGE (R161, R162). -/
def purgeRule : Rule := withEmptyBody fun s =>
  if s.line.state ≠ .faulted then (s, .plain .wrongState)
  else if s.stationBusy then (s, .plain .busy)
  else if s.web.speed ≠ 0 then (s, .plain .busy)
  else (purgeMachine s, .plain .done)

/-- RESET LINE (R163). -/
def resetLineRule : Rule := withEmptyBody fun s => (lineFault .lineReset none (abandonMachine s), .plain .done)

/-- CLEAR CAPTURE (R61). -/
def clearCaptureRule : Rule := withEmptyBody fun s =>
  (s.setReader { s.reader with capture := Capture.cleared }, .plain .done)

/-- CLEAR TALLY (R168, R169). -/
def clearTallyRule : Rule := withEmptyBody fun s =>
  (s.setLine { s.line with tally := Tally.zero, runFraction := 0, holdFraction := 0 }, .plain .done)

/-- LOAD_GEOMETRY. -/
def execLoadGeometry (s : State) : Host.Outcome State Fault Refusal :=
  .next (takeRequest .line .loadGeometry loadGeometryRule s)

/-- START. -/
def execStart (s : State) : Host.Outcome State Fault Refusal := .next (takeRequest .line .start startRule s)

/-- STOP. -/
def execStop (s : State) : Host.Outcome State Fault Refusal := .next (takeRequest .line .stop stopRule s)

/-- PURGE. -/
def execPurge (s : State) : Host.Outcome State Fault Refusal := .next (takeRequest .line .purge purgeRule s)

/-- RESET_LINE. -/
def execResetLine (s : State) : Host.Outcome State Fault Refusal := .next (takeRequest .line .resetLine resetLineRule s)

/-- CLEAR_CAPTURE. -/
def execClearCapture (s : State) : Host.Outcome State Fault Refusal :=
  .next (takeRequest .line .clearCapture clearCaptureRule s)

/-- CLEAR_TALLY. -/
def execClearTally (s : State) : Host.Outcome State Fault Refusal :=
  .next (takeRequest .line .clearTally clearTallyRule s)

end Sys2Proof.Machine
end

