-- ==== Sys2Proof/Machine/DeliveryRequests.lean ====
section
/-! DEFINITION. The requests of the delivery port (chapter 8). -/

namespace Sys2Proof.Machine

/-- A head waiting at the belt end ON_BELT is offered (R145). -/
def offerWaiting (s : State) : State :=
  match s.belt.queue with
  | n :: _ => if s.belt.atEnd = true ∧ s.setState n = some .onBelt then makeOffer n s else s
  | [] => s

/-- SET READY (R145). -/
def setReadyRule : Rule := withEmptyBody fun s =>
  match s.belt.readiness with
  | .ready => (s, .plain .done)
  | .notReady => (offerWaiting (s.setBelt { s.belt with readiness := .ready }), .plain .done)

/-- SET NOT READY (R145). -/
def setNotReadyRule : Rule := withEmptyBody fun s => (s.setBelt { s.belt with readiness := .notReady }, .plain .done)

/-- The refusal of an ACCEPT or REFUSE that names no standing offer (R147, R148 steps 2 to 4). -/
def offerRefusal (n : Nat) (s : State) : Result :=
  if (s.findSet n).bind SetRec.cause = some .offerExpired then .tooLate
  else if s.belt.offered.isSome then .wrongSet
  else .notOffered

/-- An accepted offer (R147 step 1). -/
def acceptOffer (n : Nat) (s : State) : State := examHandOver (leaveBelt (endOffer (makeTerminal n .delivered s)))

/-- ACCEPT (R147). -/
def acceptRule : Rule := withSetNumber fun n s =>
  if s.belt.offered = some n then (acceptOffer n s, .plain .done) else (s, .plain (offerRefusal n s))

/-- The index of a set's ROUTE step. -/
def routeIndex (n : Nat) (s : State) : Option Nat := (s.findSet n).bind fun r => stepIndex .route r.program

/-- A refused offer (R148 step 1). -/
def refuseOffer (n code : Nat) (s : State) : State :=
  wantBeltGate (updateSet n (fun r => { r with refuseCode := some code })
    (recordCause n .refused (routeIndex n s) (endOffer s)))

/-- REFUSE (R148). -/
def refuseRule : Rule := fun body s =>
  match parseRefuse body with
  | none => (s, .plain .badField)
  | some (n, code) =>
    if s.belt.offered = some n then (refuseOffer n code s, .plain .done) else (s, .plain (offerRefusal n s))

/-- SET_READY. -/
def execSetReady (s : State) : Host.Outcome State Fault Refusal := .next (takeRequest .delivery .setReady setReadyRule s)

/-- SET_NOT_READY. -/
def execSetNotReady (s : State) : Host.Outcome State Fault Refusal :=
  .next (takeRequest .delivery .setNotReady setNotReadyRule s)

/-- ACCEPT. -/
def execAccept (s : State) : Host.Outcome State Fault Refusal := .next (takeRequest .delivery .accept acceptRule s)

/-- REFUSE. -/
def execRefuse (s : State) : Host.Outcome State Fault Refusal := .next (takeRequest .delivery .refuse refuseRule s)

end Sys2Proof.Machine
end

