-- ==== Sys2Proof/Machine/AccEvents.lean ====
section
/-! DEFINITION. The machine events of the Accumulator Controller (chapter 6): arrivals, the hold timer, the ends and
timeouts of the release, the dump and the jog stroke, the jog interval timer. -/

namespace Sys2Proof.Machine

/-- A machine input is taken, unless the cold-start sweep is running (R165). -/
def input (rule : State → State) (s : State) : State := if s.line.sweep then s else event rule s

/-! ### Arrivals -/

/-- The entry an arrival is matched to (R105): the oldest ACCUMULATE entry, when P lies in its window. -/
def matchedEntry (s : State) : Option SheetEntry :=
  match s.oldestAccumulate with
  | some e => if within s.line.geometry.arrivalTol s.web.position e.accArrival then some e else none
  | none => none

/-- A field of a set that may be absent is changed. -/
def updateSetOpt (n : Option Nat) (f : SetRec → SetRec) (s : State) : State :=
  match n with
  | some n => updateSet n f s
  | none => s

/-- Pages arrived rises for an entry assigned to a set and carrying a page number (R105). -/
def countPage (e : SheetEntry) (s : State) : State :=
  match e.page with
  | some _ => updateSetOpt e.set (fun r => { r with pagesArrived := r.pagesArrived + 1 }) s
  | none => s

/-- An arrival while a stroke is in flight may lie askew (R109). -/
def markSkew (e : SheetEntry) (s : State) : State :=
  if s.acc.stroke.isSome then updateSetOpt e.set (fun r => { r with skewed := true }) s else s

/-- The last declared page of a good set has arrived (R106): COLLECTED, COMPLETE, and its accumulator steps begin. -/
def checkComplete (s : State) : State :=
  match s.acc.state, s.heldRec with
  | .collecting, some r =>
    if r.state = .active ∧ r.cause = none ∧ r.pagesArrived = r.pages then
      runSteps (putSetState r.number .collected (s.setAcc { s.acc with state := .complete }))
    else s
  | _, _ => s

/-- The bin takes its first sheet (R105, R106, R120): COLLECTING with the set given, or with an unassigned sheet and no
held set. -/
def openBin (held : Option Nat) (s : State) : State :=
  s.setAcc
    { s.acc with
      state := .collecting
      held := held
      unassigned := if held.isSome then s.acc.unassigned else s.acc.unassigned + 1
      sheets := s.acc.sheets + 1
      jogInterval := msTimer s.line.geometry.jogInterval }

/-- A sheet of the held set is counted (R105, R106). -/
def countSheetIn (s : State) : State := s.setAcc { s.acc with sheets := s.acc.sheets + 1 }

/-- The sheet of a collision lies in the bin (R105, R107 step 1): its set joins the other sets, an intruder is
unassigned. -/
def lieForeign (set : Option Nat) (s : State) : State :=
  match set with
  | some n =>
    s.setAcc
      { s.acc with
        sheets := s.acc.sheets + 1
        others := if s.acc.others.contains n then s.acc.others else s.acc.others ++ [n] }
  | none => s.setAcc { s.acc with sheets := s.acc.sheets + 1, unassigned := s.acc.unassigned + 1 }

/-- A collision (R107): the arriving sheet's set and the held set take ACC_COLLISION, and so does the line. -/
def collide (e : SheetEntry) (s : State) : State :=
  lineFault .accCollision (s.acc.held.or e.set)
    (recordCauseOpt s.acc.held .accCollision (recordCauseOpt e.set .accCollision (lieForeign e.set s)))

/-- A matched arrival (R105): its entry retires, and it is taken by the accumulator state and the entry's set (R106,
R107, R108). -/
def matchArrival (e : SheetEntry) (s : State) : State :=
  let s' := markSkew e (countPage e (evalTrackFull (removeSheet e.id s)))
  match s.acc.state with
  | .empty => checkComplete (openBin e.set s')
  | .dumping => testDivertedOpt e.set (recordCauseOpt e.set .dumpCollision s')
  | .collecting | .complete | .releasing =>
    if e.set.isSome ∧ e.set = s.acc.held then checkComplete (countSheetIn s') else collide e s'

/-- A stray arrival (R105). -/
def strayArrival (s : State) : State :=
  let s' := lineFault .straySheet s.acc.held s
  match s.acc.state with
  | .empty => openBin none s'
  | .dumping => s'
  | .collecting | .complete | .releasing => recordCauseOpt s.acc.held .accCollision (lieForeign none s')

/-- An arrival (R105), after which the dump, the hand-over, the strokes and ACC_BLOCKED are examined (R115, R117, R119,
R121, R123). ACC_BLOCKED is evaluated when any line fault of the arrival has been taken, so that its change then raises
no HOLD_CHANGED (assumption 36). -/
def takeArrival (s : State) : State :=
  evalAccBlocked (examObligation (examStack
    (match matchedEntry s with
     | some e => matchArrival e s
     | none => strayArrival s)))

/-! ### The hold timer -/

/-- The hold timer runs out (R113): the HELD set takes HOLD_EXPIRED with the HOLD step's index. -/
def expireHold (s : State) : State :=
  match s.acc.holdTimer with
  | none => s
  | some _ =>
    let s' := s.setAcc { s.acc with holdTimer := none }
    match s.heldRec with
    | some r => if r.state = .held then recordCause r.number .holdExpired (stepIndex .hold r.program) s' else s'
    | none => s'

/-! ### The release and the dump -/

/-- The release is not seen at the folder in time (R116): MISSING_SHEET and JAM_ACCUMULATOR; the release stays in
flight. -/
def expireRelease (s : State) : State :=
  match s.acc.releaseTimeout with
  | none => s
  | some _ =>
    lineFault .jamAccumulator s.acc.held
      (recordCauseOpt s.acc.held .missingSheet (s.setAcc { s.acc with releaseTimeout := none }))

/-- The accumulator with nothing in it and no release or dump in flight (R116, R118). -/
def Accumulator.emptied (a : Accumulator) : Accumulator :=
  { a with
    state := .empty
    held := none
    others := []
    unassigned := 0
    sheets := 0
    jogInterval := none
    releaseTimeout := none
    dumpTimeout := none }

/-- What an EMPTY accumulator brings: the obligation CLEAR, and ACC_BLOCKED evaluated (R116, R118, R123). -/
def afterEmpty (s : State) : State := evalAccBlocked (setObligation .clear s)

/-- The bin is emptied of everything it holds (R118). -/
def emptyBin (s : State) : State := afterEmpty (s.setAcc s.acc.emptied)

/-- The dump ends (R118): the contents leave and R7 is tested for each set that left, in ascending set number. -/
def endDump (s : State) : State :=
  match s.acc.state with
  | .dumping => (ascending (s.acc.held.toList ++ s.acc.others)).foldl (fun s n => testDiverted n s) (emptyBin s)
  | .empty | .collecting | .complete | .releasing => s

/-- The dump does not end in time (R118): JAM_ACCUMULATOR; the dump stays in flight. -/
def expireDump (s : State) : State :=
  match s.acc.dumpTimeout with
  | none => s
  | some _ => lineFault .jamAccumulator s.acc.held (s.setAcc { s.acc with dumpTimeout := none })

/-! ### The jogger -/

/-- The JOG step's own stroke has ended (R112): JOG is passed and the next step is taken, unless the set has left
COLLECTED. -/
def passJog (s : State) : State :=
  match s.heldRec with
  | some r => if r.state = .collected then runSteps (updateSet r.number (SetRec.pass .jog) s) else s
  | none => s

/-- The jog interval timer restarts while the accumulator is COLLECTING or COMPLETE (R120). -/
def restartInterval (s : State) : State :=
  match s.acc.state with
  | .collecting | .complete => s.setAcc { s.acc with jogInterval := msTimer s.line.geometry.jogInterval }
  | .empty | .releasing | .dumping => s

/-- A squaring stroke has squared the held stack (R109). -/
def squareUp (k : Stroke) (s : State) : State :=
  if k.squaring then updateSetOpt s.acc.held (fun r => { r with skewed := false }) s else s

/-- The JOG step is passed when the stroke was its own (R112). -/
def passStep (k : Stroke) (s : State) : State := if k.jogStep then passJog s else s

/-- A stroke ends (R119): the obligation becomes CLEAR and the interval restarts; a squaring stroke clears SKEWED
(R109) and the JOG step's stroke passes JOG (R112); hand-over and dump are examined again. -/
def endStroke (k : Stroke) (s : State) : State :=
  examStack (passStep k (squareUp k (setObligation .clear (restartInterval (s.setAcc
    { s.acc with stroke := none, jogTimeout := none })))))

/-- The jog-done input (R119): ignored while no stroke is in flight. -/
def jogDone (s : State) : State :=
  match s.acc.stroke with
  | some k => endStroke k s
  | none => s

/-- A stroke does not end in time (R119): JAM_JOGGER; the stroke stays in flight. -/
def expireJog (s : State) : State :=
  match s.acc.jogTimeout with
  | none => s
  | some _ => lineFault .jamJogger s.acc.held (s.setAcc { s.acc with jogTimeout := none })

/-- The next level of the jog obligation (Table 6-2). -/
def Obligation.escalate : Obligation → Obligation
  | .clear => .due
  | .due => .urgent
  | .urgent => .forced
  | .forced => .forced

/-- The jog interval timer runs out (R120, R121): it restarts and the obligation escalates. -/
def expireInterval (s : State) : State :=
  match s.acc.jogInterval with
  | none => s
  | some _ => setObligation s.acc.obligation.escalate (restartInterval (s.setAcc { s.acc with jogInterval := none }))

/-! ### The commands -/

/-- ARRIVAL. -/
def execArrival (s : State) : Host.Outcome State Fault Refusal := .next (input takeArrival s)

/-- HOLD_TIMER_EXPIRY. -/
def execHoldTimerExpiry (s : State) : Host.Outcome State Fault Refusal := .next (event expireHold s)

/-- HAND_OVER: the conditions of R115 are examined. -/
def execHandOver (s : State) : Host.Outcome State Fault Refusal := .next (event examHandOver s)

/-- RELEASE_TIMEOUT. -/
def execReleaseTimeout (s : State) : Host.Outcome State Fault Refusal := .next (event expireRelease s)

/-- DUMP_START: the conditions of R117 are examined. -/
def execDumpStart (s : State) : Host.Outcome State Fault Refusal := .next (event examDump s)

/-- DUMP_DONE. -/
def execDumpDone (s : State) : Host.Outcome State Fault Refusal := .next (input endDump s)

/-- DUMP_TIMEOUT. -/
def execDumpTimeout (s : State) : Host.Outcome State Fault Refusal := .next (event expireDump s)

/-- JOG_STROKE_START: the conditions of R119 are examined, for a squaring stroke and then for the obligation's. -/
def execJogStrokeStart (s : State) : Host.Outcome State Fault Refusal :=
  .next (event (fun s => examObligation (examSquaring s)) s)

/-- JOG_DONE. -/
def execJogDone (s : State) : Host.Outcome State Fault Refusal := .next (input jogDone s)

/-- JOG_TIMEOUT. -/
def execJogTimeout (s : State) : Host.Outcome State Fault Refusal := .next (event expireJog s)

/-- JOG_INTERVAL_EXPIRY. -/
def execJogIntervalExpiry (s : State) : Host.Outcome State Fault Refusal := .next (event expireInterval s)

end Sys2Proof.Machine
end

