-- ==== Sys2Proof/Machine/FolderEvents.lean ====
section
/-! DEFINITION. The machine events of the Folder Controller (chapter 7): folder entry, fold exit, the fold timer. -/

namespace Sys2Proof.Machine

/-- Pages arrived of set n, 0 when no record holds it. -/
def arrivedOf (s : State) (n : Nat) : Nat :=
  match s.findSet n with
  | some r => r.pagesArrived
  | none => 0

/-- The accumulator after a release that a collision left sheets behind (R116): the first of the other sets, if any, is
the held set, the accumulator is COLLECTING and the jog interval starts. -/
def Accumulator.keep (a : Accumulator) (arrived interval : Nat) : Accumulator :=
  { a with
    state := .collecting
    held := a.others.head?
    others := a.others.tail
    sheets := a.sheets - arrived
    releaseTimeout := none
    jogInterval := msTimer interval }

/-- The released set n passes from the accumulator to the folder, which becomes f, at one event (R116, R128): the bin is
EMPTY, or keeps what a collision left, and the dump of that is examined. -/
def endRelease (n : Nat) (f : Folder) (s : State) : State :=
  if s.acc.others.isEmpty && s.acc.unassigned == 0 then afterEmpty ((s.setAcc s.acc.emptied).setFolder f)
  else
    let a := s.acc.keep (arrivedOf s n) s.line.geometry.jogInterval
    examDump (evalAccBlocked ((s.setAcc a).setFolder f))

/-- The folder-entry sensor (R128, R129): the released set enters an IDLE folder; any other entry is spurious. -/
def enterFolder (s : State) : State :=
  match s.folder.state, s.acc.state, s.acc.held with
  | .idle, .releasing, some n =>
    endRelease n { s.folder with state := .folding, set := some n, timer := msTimer s.line.geometry.foldTimeout } s
  | _, _, _ => lineFault .jamFolder s.folder.set s

/-- A fold ends PASS (R131): the result is recorded, the set joins the Belt Queue, the folder is IDLE, folds rises, and
hand-over is examined. -/
def passFold (n : Nat) (s : State) : State :=
  let f := { s.folder.record n true with state := .idle, set := none, timer := none }
  examHandOver ((joinBelt n f s).withTally Tally.folded)

/-- The late exit of a jammed set (R133): it joins the Belt Queue; the folder stays FAULTED with no set. -/
def lateExit (n : Nat) (s : State) : State := joinBelt n { s.folder with set := none } s

/-- The fold-exit sensor (R131, R133). -/
def leaveFolder (s : State) : State :=
  match s.folder.state, s.folder.set with
  | .folding, some n => passFold n s
  | .faulted, some n => lateExit n s
  | _, _ => lineFault .jamFolder none s

/-- FOLD_JAM's failing step for set n (Table 1-6). -/
def jamIndex (n : Nat) (s : State) : Option Nat := (s.findSet n).bind fun r => foldFailIndex r.program

/-- The fold timer runs out (R132): FAIL, FOLD_JAM, FAULTED, JAM_FOLDER. -/
def expireFold (s : State) : State :=
  match s.folder.timer, s.folder.state, s.folder.set with
  | some _, .folding, some n =>
    lineFault .jamFolder (some n) (recordCause n .foldJam (jamIndex n s)
      (s.setFolder { s.folder.record n false with state := .faulted, timer := none }))
  | _, _, _ => s

/-- FOLDER_ENTRY. -/
def execFolderEntry (s : State) : Host.Outcome State Fault Refusal := .next (input enterFolder s)

/-- FOLD_EXIT. -/
def execFoldExit (s : State) : Host.Outcome State Fault Refusal := .next (input leaveFolder s)

/-- FOLD_TIMER_EXPIRY. -/
def execFoldTimerExpiry (s : State) : Host.Outcome State Fault Refusal := .next (event expireFold s)

end Sys2Proof.Machine
end

