-- ==== Sys2Proof/Machine/DeliveryEvents.lean ====
section
/-! DEFINITION. The machine events of the Delivery Controller (chapter 8): the belt end, the belt travel timer, the belt
gate stroke, the offer timer. -/

namespace Sys2Proof.Machine

/-- The belt-end sensor (R141): a spurious belt end, or the head has arrived and is routed. -/
def reachEnd (s : State) : State :=
  match s.belt.queue with
  | [] => lineFault .jamBelt none s
  | n :: _ =>
    if s.belt.atEnd then lineFault .jamBelt (some n) s
    else routeHead n (s.setBelt { s.belt with atEnd := true, travel := none, travelPaused := false })

/-- The belt travel timer runs out (R140): JAM_BELT with the head's number. -/
def expireTravel (s : State) : State :=
  match s.belt.travel with
  | none => s
  | some _ => lineFault .jamBelt s.belt.queue.head? (s.setBelt { s.belt with travel := none })

/-- The gate-done input (R144): the head leaves the queue, R7 is tested for it, and hand-over is examined. Ignored while
no stroke is in flight. -/
def endGate (s : State) : State :=
  if s.belt.stroke then
    examHandOver (testDivertedOpt s.belt.queue.head?
      (leaveBelt (s.setBelt { s.belt with stroke := false, gateTimeout := none })))
  else s

/-- The belt gate stroke does not end in time (R143): JAM_BELT with the head's number; the stroke stays in flight. -/
def expireGate (s : State) : State :=
  match s.belt.gateTimeout with
  | none => s
  | some _ => lineFault .jamBelt s.belt.queue.head? (s.setBelt { s.belt with gateTimeout := none })

/-- The offer to set n expires (R149). -/
def expireOfferOf (n : Nat) (s : State) : State :=
  wantBeltGate (raiseCond .withdrawn (.setNumber n) (recordCause n .offerExpired (routeIndex n s) (endOffer s)))

/-- The offer timer runs out (R149). -/
def expireOffer (s : State) : State :=
  match s.belt.offerTimer, s.belt.offered with
  | some _, some n => expireOfferOf n s
  | _, _ => s

/-- BELT_END. -/
def execBeltEnd (s : State) : Host.Outcome State Fault Refusal := .next (input reachEnd s)

/-- BELT_TRAVEL_EXPIRY. -/
def execBeltTravelExpiry (s : State) : Host.Outcome State Fault Refusal := .next (event expireTravel s)

/-- BELT_GATE_STROKE: a wanted stroke starts when GUARD is closed (R143). -/
def execBeltGateStroke (s : State) : Host.Outcome State Fault Refusal := .next (event examBeltGate s)

/-- BELT_GATE_DONE. -/
def execBeltGateDone (s : State) : Host.Outcome State Fault Refusal := .next (input endGate s)

/-- BELT_GATE_TIMEOUT. -/
def execBeltGateTimeout (s : State) : Host.Outcome State Fault Refusal := .next (event expireGate s)

/-- OFFER_TIMER_EXPIRY. -/
def execOfferTimerExpiry (s : State) : Host.Outcome State Fault Refusal := .next (event expireOffer s)

end Sys2Proof.Machine
end

