-- ==== Sys2Proof/Machine/LinkEvents.lean ====
section
/-! DEFINITION. What the receive line brings to a port (chapter 10): bytes and good frames (R172, R173), the request
queue (R174), the time limit of a frame, the link coming up (R170) and the break (R171). -/

namespace Sys2Proof.Machine

/-- An event that concerns no collection of the machine: its own rule, then its notices (R177). -/
def quiet (rule : State → State) (s : State) : State := (flushNotices (rule s.begin)).setEv Event.none

/-! ### Receiving -/

/-- µs from the sync byte within which a frame's last CRC byte must come: 10 ms (R173). -/
def frameTime : Nat := 10000

/-- The largest length byte (Table 10-1). -/
def longestLength : Nat := 120

/-- The request queue holds at most 4 good frames (R174). -/
def requestCapacity : Nat := 4

/-- What the bytes of a frame after its sync byte amount to so far (R172, R173). -/
inductive FrameCheck where
  /-- the frame is not yet whole -/
  | going
  /-- its length byte or its CRC is wrong -/
  | bad
  /-- it is whole and good -/
  | good (kind : Byte) (body : List Byte)
  deriving DecidableEq, Repr, Inhabited

/-- The check of R173 on the bytes after the sync byte: the length byte as soon as it is in, the CRC with the last
byte. -/
def checkFrame : List Byte → FrameCheck
  | [] => .going
  | n :: rest =>
    if n.toNat = 0 ∨ longestLength < n.toNat then .bad
    else if rest.length < n.toNat + 2 then .going
    else if rest.drop n.toNat = leBytes 2 (crc (n :: rest.take n.toNat)).toNat then
      match rest.take n.toNat with
      | kind :: body => .good kind body
      | [] => .bad
    else .bad

/-- A frame in progress is discarded and LINK_FAULT is raised (R173). -/
def rejectFrame (p : Port) (s : State) : State :=
  raiseCond (linkFaultOf p) .none (s.setPort p { s.port p with rx := none })

/-- A good frame enters the request queue (R174); when the queue is full it replaces the newest request, is marked
overrun, and LINK_FAULT is raised. -/
def enqueue (p : Port) (kind : Byte) (body : List Byte) (s : State) : State :=
  let ps := s.port p
  if ps.queue.length < requestCapacity then
    s.setPort p { ps with queue := ps.queue ++ [{ kind := kind, body := body, overrun := false }] }
  else
    raiseCond (linkFaultOf p) .none (s.setPort p
      { ps with queue := ps.queue.dropLast ++ [{ kind := kind, body := body, overrun := true }] })

/-- A byte of the frame in progress (R173). -/
def frameByte (p : Port) (f : RxFrame) (b : RxByte) (s : State) : State :=
  if b.stop = false then rejectFrame p s
  else
    match checkFrame (f.bytes ++ [b.value]) with
    | .going => s.setPort p { s.port p with rx := some { f with bytes := f.bytes ++ [b.value] } }
    | .bad => rejectFrame p s
    | .good kind body => enqueue p kind body (s.setPort p { s.port p with rx := none })

/-- A byte while the port hunts for sync (R173). -/
def huntByte (p : Port) (b : RxByte) (s : State) : State :=
  if b.value ≠ syncByte then s
  else if b.stop = false then rejectFrame p s
  else s.setPort p { s.port p with rx := some { bytes := [], timer := frameTime } }

/-- A byte on the receive line of port p: nothing while the link is DOWN (R170). -/
def receiveByte (p : Port) (b : RxByte) (s : State) : State :=
  match (s.port p).link, (s.port p).rx with
  | .down, _ => s
  | .up, none => huntByte p b s
  | .up, some f => frameByte p f b s

/-- The bytes of a run, each an event of its own. -/
def receiveBytes (p : Port) (bytes : List RxByte) (s : State) : State :=
  bytes.foldl (fun s b => quiet (receiveByte p b) s) s

/-- The time of the frame in progress is over (R173). -/
def frameOver (p : Port) (s : State) : State :=
  match (s.port p).rx with
  | some _ => rejectFrame p s
  | none => s

/-! ### The link state -/

/-- The port goes UP and sends a notice for each pending condition (R170). -/
def raiseLink (p : Port) (s : State) : State :=
  match (s.port p).link with
  | .down => sendNotices p (fun _ => true) (s.setPort p { s.port p with link := .up })
  | .up => s

/-- What a break does outside its port (R171): LINE_LINK_LOST on a RUNNING line (R160), NOT READY on the delivery port
(R145, R150), nothing on the job port. -/
def breakEffect (p : Port) (s : State) : State :=
  match p with
  | .job => s
  | .line =>
    match s.line.state with
    | .running => lineFault .lineLinkLost none s
    | .stopped | .faulted => s
  | .delivery => s.setBelt { s.belt with readiness := .notReady }

/-- A break (R171): the port is emptied and goes DOWN, its conditions are cleared, and the level conditions whose cause
persists become pending again. -/
def breakLink (p : Port) (s : State) : State :=
  match (s.port p).link with
  | .up => relatch p (breakEffect p (s.setPort p (PortState.poweredUp [])))
  | .down => s

/-! ### The commands -/

/-- GOOD_FRAME. -/
def execGoodFrame (p : Port) (bytes : List RxByte) (s : State) : Host.Outcome State Fault Refusal :=
  .next (receiveBytes p bytes s)

/-- FRAME_TIMEOUT. -/
def execFrameTimeout (p : Port) (s : State) : Host.Outcome State Fault Refusal := .next (quiet (frameOver p) s)

/-- LINK_UP. -/
def execLinkUp (p : Port) (s : State) : Host.Outcome State Fault Refusal := .next (quiet (raiseLink p) s)

/-- LINK_BREAK. -/
def execLinkBreak (p : Port) (s : State) : Host.Outcome State Fault Refusal := .next (quiet (breakLink p) s)

end Sys2Proof.Machine
end

