-- ==== Sys2Proof/Machine/LineEvents.lean ====
section
/-! DEFINITION. The machine events of the Line Supervisor (chapter 9): GUARD, power-up, the end of the cold-start
sweep. -/

namespace Sys2Proof.Machine

/-! ### GUARD (R158) -/

/-- GUARD as a level: closed or open. -/
def guardOf (closed : Bool) : Guard := if closed then .closed else .opened

/-- GUARD as read. -/
def State.setGuard (s : State) (g : Guard) : State := s.setLine { s.line with guard := g }

/-- GUARD opens (R158): on a RUNNING line it is a line fault. -/
def openGuard (s : State) : State :=
  match s.line.guard, s.line.state with
  | .closed, .running => (lineFault .guardOpen none s).setGuard .opened
  | .closed, _ => s.setGuard .opened
  | .opened, _ => s

/-- GUARD closes (R158): the blocks re-examine what they were holding back. -/
def closeGuard (s : State) : State :=
  match s.line.guard with
  | .opened => examObligation (examStack (examBeltGate (s.setGuard .closed)))
  | .closed => s

/-! ### Power-up (R164) -/

/-- The ports at power-up, their pending conditions kept (R164, R166, R170). -/
def Links.poweredUp (l : Links) : Links :=
  { job := .poweredUp l.job.conds, line := .poweredUp l.line.conds, delivery := .poweredUp l.delivery.conds }

/-- The Web Position Unit at a warm start (R24, R28, R29): P is kept. -/
def WebUnit.warm (w : WebUnit) : WebUnit :=
  { position := w.position, speed := 0, kept := w.position, speedHigh := false, reverse := false,
    toUpdate := updatePeriod }

/-- The Line Supervisor at a warm start (R164, R166, R168). -/
def Supervisor.warm (l : Supervisor) (p : Pos) (g : Guard) : Supervisor :=
  { l with
    state := .faulted
    record := { cause := some .powerLost, set := none, further := false }
    stopPoint := p
    runFraction := 0
    holdFraction := 0
    guard := g
    sweep := false }

/-- The page gate is at WASTE (R103). -/
def gateToWaste (s : State) : State := s.setFiring { s.firing with actual := .waste, planned := .waste }

/-- The inserter is NOT READY (R145). -/
def unready (s : State) : State := s.setBelt { s.belt with readiness := .notReady }

/-- The Web Position Unit and the Line Supervisor at a warm start. -/
def warmLine (g : Guard) (s : State) : State := (s.setWeb s.web.warm).setLine (s.line.warm s.web.position g)

/-- A warm start (R166): the machine's contents are abandoned as under RESET LINE, the gate is at WASTE, readiness is NOT
READY, and the line is FAULTED with POWER_LOST. -/
def warmStart (g : Guard) (s : State) : State :=
  raiseCond .lineFault (.lineCause .powerLost) (warmLine g (gateToWaste (unready
    (abandonMachine (s.setLinks s.links.poweredUp)))))

/-- A cold start (R165): the clearing sweep begins. -/
def coldStart (g : Guard) (s : State) : State :=
  { State.reset.setGuard g with choices := s.choices, pending := s.pending }

/-- A power-up (R164): RETAIN decides. -/
def powerOn (retainGood guardClosed : Bool) (s : State) : State :=
  if retainGood then warmStart (guardOf guardClosed) s else coldStart (guardOf guardClosed) s

/-- Every pending condition of every port is cleared (R165). -/
def clearAllConds (s : State) : State :=
  s.setLinks
    { job := { s.links.job with conds := [] }
      line := { s.links.line with conds := [] }
      delivery := { s.links.delivery with conds := [] } }

/-- The sweep completes (R165): the stop point is set to P, GUARD is read, and LINE_FAULT with COLD_START becomes
pending. -/
def endSweep (g : Guard) (s : State) : State :=
  if s.line.sweep then
    raiseCond .lineFault (.lineCause .coldStart) ((clearAllConds s).setLine
      { s.line with sweep := false, stopPoint := s.web.position, guard := g })
  else s

/-- GUARD_OPEN. -/
def execGuardOpen (s : State) : Host.Outcome State Fault Refusal := .next (input openGuard s)

/-- GUARD_CLOSE. -/
def execGuardClose (s : State) : Host.Outcome State Fault Refusal := .next (input closeGuard s)

/-- POWER_UP. -/
def execPowerUp (retainGood guardClosed : Bool) (s : State) : Host.Outcome State Fault Refusal :=
  .next (quiet (powerOn retainGood guardClosed) s)

/-- SWEEP_COMPLETE. -/
def execSweepComplete (guardClosed : Bool) (s : State) : Host.Outcome State Fault Refusal :=
  .next (quiet (endSweep (guardOf guardClosed)) s)

end Sys2Proof.Machine
end

