-- ==== Sys2Proof/Machine/PortRequests.lean ====
section
/-! DEFINITION. The requests that every port takes, and the request of no kind of its port (R61, R169, R175, R179,
R180). -/

namespace Sys2Proof.Machine

/-- READ_STATUS. -/
def execReadStatus (p : Port) (s : State) : Host.Outcome State Fault Refusal :=
  .next (takeRequest p .readStatus (readStatusRule p) s)

/-- READ_TALLY. -/
def execReadTally (p : Port) (s : State) : Host.Outcome State Fault Refusal :=
  .next (takeRequest p .readTally readTallyRule s)

/-- READ_CAPTURE. -/
def execReadCapture (p : Port) (s : State) : Host.Outcome State Fault Refusal :=
  .next (takeRequest p .readCapture readCaptureRule s)

/-- CLEAR_CONDITION. -/
def execClearCondition (p : Port) (s : State) : Host.Outcome State Fault Refusal :=
  .next (takeRequest p .clearCondition (clearConditionRule p) s)

/-- UNDEFINED_REQUEST_KIND. -/
def execUndefinedRequestKind (p : Port) (s : State) : Host.Outcome State Fault Refusal := .next (takeUndefined p s)

end Sys2Proof.Machine
end

