-- ==== Sys2Proof/Machine/WebEvents.lean ====
section
/-! DEFINITION. What the web brings: the encoder step and the positions it makes P reach or pass (R23, R26), the speed
update and the blocks that predict from w (R27, R29), and the bar events of the read head (R48). -/

namespace Sys2Proof.Machine

/-! ### Firings falling due -/

/-- A GATE entry withheld outside a walk asks for one re-derivation of the gate plan: that of R101 while GUARD is open,
else that of R97. -/
def askWithheld (a : Actuator) (s : State) : State :=
  match a, s.line.guard with
  | .knife _, _ => s
  | .gate _ _, .opened => s.askGuardPlan
  | .gate _ _, .closed => s.askPlan

/-- A queued entry falls due with a lateness (R96 to R101): it leaves the queue and fires or is withheld; a GATE entry
withheld outside a walk has its sheet rewritten to the actual gate position and asks for one re-derivation. -/
def fallDue (f : Firing) (lateness : Int) (s : State) : State :=
  let r := takeDue f lateness s.firing.actual (s.setQueue (s.firing.queue.filter fun g => g ≠ f))
  if r.2 then askWithheld f.actuator r.1 else r.1

/-! ### The encoder step -/

/-- The position that a block watches and that P has reached or passed (R26). -/
inductive Watch where
  /-- the far edge of the open row (R50, R51) -/
  | rowEdge
  /-- the fire point of a queued entry (R96) -/
  | firePoint (actuator : Actuator) (target : Pos)
  /-- a sheet's gate arrival (R67) -/
  | gateArrival (id : Nat)
  /-- a WASTE sheet's waste retirement (R68) -/
  | wasteRetirement (id : Nat)
  /-- an ACCUMULATE sheet's lost retirement (R110) -/
  | lostRetirement (id : Nat)
  /-- SD of travel from the stop point (R157) -/
  | travel
  deriving DecidableEq, Repr, Inhabited

/-- Whether the gate arrival of an entry has been passed and not yet taken (R67). -/
def gateOver (s : State) (e : SheetEntry) : Bool := !e.pastGate && passed s.web.position e.gateArrival

/-- Whether the travel check finds more than SD from the stop point (R157). -/
def travelOver (s : State) : Bool :=
  s.line.state != .running
    && (decide (signedDist s.line.stopPoint s.web.position > s.line.geometry.stopping)
      || decide (signedDist s.line.stopPoint s.web.position < -(s.line.geometry.stopping : Int)))

/-- Whether the open row's far edge has been passed. -/
def edgeOver (s : State) : Bool :=
  match s.reader.openRow with
  | some r => rowOver s r
  | none => false

/-- What the blocks watch and P has now reached or passed. -/
def dueWatches (s : State) : List Watch :=
  (if edgeOver s then [.rowEdge] else []) ++
    ((s.firing.queue.filter fun f => reached s.web.position f.firePoint).map fun f => .firePoint f.actuator f.target) ++
    ((s.track.list.filter (gateOver s)).map fun e => .gateArrival e.id) ++
    ((s.track.list.filter (wasteOver s)).map fun e => .wasteRetirement e.id) ++
    ((s.track.list.filter (arrivalOver s)).map fun e => .lostRetirement e.id) ++
    if travelOver s then [.travel] else []

/-- A sheet has passed its gate arrival (R67), which may make a dump due or hold it back (R117). -/
def passGate (id : Nat) (s : State) : State :=
  (updateSheet id (fun e => { e with pastGate := true }) s).askDump

/-- The stop point is set to P (R157). -/
def markStop (s : State) : State := s.setLine { s.line with stopPoint := s.web.position }

/-- UNPERMITTED_TRAVEL (R157): the fault is taken and the stop point follows P. -/
def takeTravel (s : State) : State := markStop (lineFault .unpermittedTravel none s)

/-- A watched position is taken as an event of its own, if it still stands: an event taken before it at this step may
have removed what was watched. -/
def takeWatch (s : State) : Watch → State
  | .rowEdge =>
    match s.reader.openRow with
    | some r => if rowOver s r then event (closeRow r) s else s
    | none => s
  | .firePoint a target =>
    match standing s a target with
    | some f => if reached s.web.position f.firePoint then event (fallDue f 0) s else s
    | none => s
  | .gateArrival id =>
    match s.findSheet id with
    | some e => if gateOver s e then event (passGate id) s else s
    | none => s
  | .wasteRetirement id =>
    match s.findSheet id with
    | some e => if wasteOver s e then event (retireWaste e) s else s
    | none => s
  | .lostRetirement id =>
    match s.findSheet id with
    | some e => if arrivalOver s e then event (retireLost e) s else s
    | none => s
  | .travel => if travelOver s then event takeTravel s else s

/-- Several events at one moment, in a free order where there is more than one (assumption 7). -/
def inFreeOrder {α : Type} (take : State → α → State) (xs : List α) (s : State) : State :=
  match xs with
  | [] => s
  | [x] => take s x
  | _ => (arrange s xs).foldl take s.drawn

/-- P moves by one count (R23). -/
def movePosition (d : Direction) (s : State) : State :=
  s.setWeb { s.web with position := stepPosition d s.web.position }

/-- An encoder step (R23, R26). While the sweep runs P counts and nothing is watched (R165). -/
def stepWeb (d : Direction) (s : State) : State :=
  let s' := movePosition d s
  if s.line.sweep then s' else inFreeOrder takeWatch (dueWatches s') s'

/-! ### The speed update -/

/-- The Web Position Unit's own part (R27, R28). -/
def sampleSpeed (s : State) : State :=
  let s' := s.setWeb (updateSpeed s.web)
  if rawSpeed s.web > 255 then raiseCond .overspeed .none s' else s'

/-- Every fire point is recomputed at the new w and the queue takes its order again (R97). -/
def retime (s : State) : State :=
  s.setQueue (orderQueue s.web.position (s.firing.queue.map fun f =>
    { f with firePoint := firePointOf s f.actuator f.target }))

/-- A late entry of a speed update (R97, R98, R99, R100). -/
def takeLate (s : State) (f : Firing) : State := fallDue f (signedDist f.firePoint s.web.position) s

/-- The Firing Scheduler's part of a speed update (R97): the entries that P has reached fall due, earliest first. -/
def updateFirings (s : State) : State :=
  ((retime s).firing.queue.filter fun f => reached s.web.position f.firePoint).foldl takeLate (retime s)

/-- The Accumulator Controller's part of a speed update (R121, R123). -/
def updateStack (s : State) : State := evalAccBlocked (examObligation s)

/-- The blocks that take a speed update (R29, R140). -/
inductive SpeedPart where
  | firings
  | stack
  | hunting
  | belt
  deriving DecidableEq, Repr, Inhabited

/-- The parts with something to do at this update. -/
def speedParts (s : State) : List SpeedPart :=
  (if s.firing.queue.isEmpty then [] else [.firings]) ++
    (if s.acc.state == .empty && !s.line.holds.accBlocked then [] else [.stack]) ++
    (if (s.line.state == .running && s.reader.state == .hunt) || s.line.holds.readerHunting then [.hunting] else []) ++
    if s.belt.travel.isSome || s.belt.travelPaused then [.belt] else []

/-- A block takes the speed update as an event of its own (R29). -/
def takePart (s : State) : SpeedPart → State
  | .firings => event updateFirings s
  | .stack => event updateStack s
  | .hunting => event evalHunting s
  | .belt => event updateTravel s

/-- A speed update (R27, R29): the Web Position Unit's part, then the blocks in a free order. -/
def updateSpeeds (s : State) : State :=
  let s' := quiet sampleSpeed s
  if s.line.sweep then s' else inFreeOrder takePart (speedParts s') s'

/-! ### Bar events -/

/-- A bar event (R48): ignored while the sweep runs (R165) or the screen of R48 drops it. -/
def readBar (lane : Lane) (pos : Pos) (c : Cells) (truncated : Bool) (s : State) : State :=
  if s.line.sweep then s
  else if barGoesOn s lane then event (takeBar lane pos c truncated) s
  else s

/-! ### The commands -/

/-- ENCODER_STEP. -/
def execEncoderStep (d : Direction) (s : State) : Host.Outcome State Fault Refusal := .next (stepWeb d s)

/-- SPEED_UPDATE. -/
def execSpeedUpdate (s : State) : Host.Outcome State Fault Refusal := .next (updateSpeeds s)

/-- BAR_EVENT. -/
def execBarEvent (lane : Lane) (pos : Pos) (c : Cells) (truncated : Bool) (s : State) :
    Host.Outcome State Fault Refusal :=
  .next (readBar lane pos c truncated s)

end Sys2Proof.Machine
end

