-- ==== Sys2Proof/Machine/Dispatch.lean ====
section
/-! DEFINITION. One arm for each command: its meaning. -/

namespace Sys2Proof.Machine

def exec (i : Instr) (s : State) : Host.Outcome State Fault Refusal :=
  match i with
  | .loadProfile => Sys2Proof.Machine.execLoadProfile s
  | .loadSet => Sys2Proof.Machine.execLoadSet s
  | .amendSet => Sys2Proof.Machine.execAmendSet s
  | .cancelSet => Sys2Proof.Machine.execCancelSet s
  | .releaseSet => Sys2Proof.Machine.execReleaseSet s
  | .querySet => Sys2Proof.Machine.execQuerySet s
  | .takeCompletion => Sys2Proof.Machine.execTakeCompletion s
  | .takeReprint => Sys2Proof.Machine.execTakeReprint s
  | .loadGeometry => Sys2Proof.Machine.execLoadGeometry s
  | .start => Sys2Proof.Machine.execStart s
  | .stop => Sys2Proof.Machine.execStop s
  | .purge => Sys2Proof.Machine.execPurge s
  | .resetLine => Sys2Proof.Machine.execResetLine s
  | .clearCapture => Sys2Proof.Machine.execClearCapture s
  | .clearTally => Sys2Proof.Machine.execClearTally s
  | .setReady => Sys2Proof.Machine.execSetReady s
  | .setNotReady => Sys2Proof.Machine.execSetNotReady s
  | .accept => Sys2Proof.Machine.execAccept s
  | .refuse => Sys2Proof.Machine.execRefuse s
  | .readStatus p => Sys2Proof.Machine.execReadStatus p s
  | .readTally p => Sys2Proof.Machine.execReadTally p s
  | .readCapture p => Sys2Proof.Machine.execReadCapture p s
  | .clearCondition p => Sys2Proof.Machine.execClearCondition p s
  | .undefinedRequestKind p => Sys2Proof.Machine.execUndefinedRequestKind p s
  | .goodFrame p bytes => Sys2Proof.Machine.execGoodFrame p bytes s
  | .frameTimeout p => Sys2Proof.Machine.execFrameTimeout p s
  | .linkUp p => Sys2Proof.Machine.execLinkUp p s
  | .linkBreak p => Sys2Proof.Machine.execLinkBreak p s
  | .encoderStep d => Sys2Proof.Machine.execEncoderStep d s
  | .speedUpdate => Sys2Proof.Machine.execSpeedUpdate s
  | .barEvent lane pos c truncated => Sys2Proof.Machine.execBarEvent lane pos c truncated s
  | .arrival => Sys2Proof.Machine.execArrival s
  | .holdTimerExpiry => Sys2Proof.Machine.execHoldTimerExpiry s
  | .handOver => Sys2Proof.Machine.execHandOver s
  | .releaseTimeout => Sys2Proof.Machine.execReleaseTimeout s
  | .dumpStart => Sys2Proof.Machine.execDumpStart s
  | .dumpDone => Sys2Proof.Machine.execDumpDone s
  | .dumpTimeout => Sys2Proof.Machine.execDumpTimeout s
  | .jogStrokeStart => Sys2Proof.Machine.execJogStrokeStart s
  | .jogDone => Sys2Proof.Machine.execJogDone s
  | .jogTimeout => Sys2Proof.Machine.execJogTimeout s
  | .jogIntervalExpiry => Sys2Proof.Machine.execJogIntervalExpiry s
  | .folderEntry => Sys2Proof.Machine.execFolderEntry s
  | .foldExit => Sys2Proof.Machine.execFoldExit s
  | .foldTimerExpiry => Sys2Proof.Machine.execFoldTimerExpiry s
  | .beltEnd => Sys2Proof.Machine.execBeltEnd s
  | .beltTravelExpiry => Sys2Proof.Machine.execBeltTravelExpiry s
  | .beltGateStroke => Sys2Proof.Machine.execBeltGateStroke s
  | .beltGateDone => Sys2Proof.Machine.execBeltGateDone s
  | .beltGateTimeout => Sys2Proof.Machine.execBeltGateTimeout s
  | .offerTimerExpiry => Sys2Proof.Machine.execOfferTimerExpiry s
  | .guardOpen => Sys2Proof.Machine.execGuardOpen s
  | .guardClose => Sys2Proof.Machine.execGuardClose s
  | .powerUp retainGood guardClosed => Sys2Proof.Machine.execPowerUp retainGood guardClosed s
  | .sweepComplete guardClosed => Sys2Proof.Machine.execSweepComplete guardClosed s

end Sys2Proof.Machine
end

