-- ==== Sys2Proof/Safety.lean ====
section
/-! DEFINITION. What counts as a safe state of the part, in the terms the claims use. Each is a rule of the spec about the
whole part, kept by every step. -/

namespace Sys2Proof.Machine

/-- The line (R153, R159, R165): RUNNING only with GUARD closed; a fault record exactly while FAULTED; FAULTED while the
sweep runs. -/
structure LineOk (l : Supervisor) : Prop where
  guardClosed : l.state = .running → l.guard = .closed
  recordEmpty : l.state ≠ .faulted → l.record = FaultRecord.none
  recordHeld : l.state = .faulted → l.record.cause.isSome
  sweeping : l.sweep = true → l.state = .faulted

/-- Port p (R170, R171, R174, R178, Table 10-4): at most 4 requests wait; a port whose link is DOWN holds no request, no
frame in progress and no frame to send; the pending conditions are the port's own, and stand in priority order (the order
of the condition codes) without repeats. -/
structure PortOk (p : Port) (x : PortState) : Prop where
  queueShort : x.queue.length ≤ 4
  downEmpty : x.link = .down → x.queue = [] ∧ x.rx = none ∧ x.tx = []
  condsOwn : ∀ c ∈ x.conds, c.cond.port = p
  condsOrdered : (x.conds.map fun c => c.cond.code).Pairwise (· < ·)

/-- Sets in the folder: 1 or 0. -/
def inFolder (f : Folder) : Nat := if f.set.isSome then 1 else 0

/-- Sets on their way to the folder: 1 or 0. -/
def inRelease (a : Accumulator) : Nat := if a.state = .releasing then 1 else 0

/-- The folder and the belt (R126, R139): an IDLE folder holds no set, and the sets on the belt, in the folder and on
their way to it number at most 3. -/
structure BeltOk (s : State) : Prop where
  idleEmpty : s.folder.state = .idle → s.folder.set = none
  atMostThree : s.belt.queue.length + inFolder s.folder + inRelease s.acc ≤ 3

/-- JOG_FORCED stands in the hold-cause set exactly while the jog obligation is FORCED (R122). -/
def JogOk (s : State) : Prop := s.line.holds.jogForced = (s.acc.obligation == .forced)

/-- The Set Table (R2): at most 64 records, and no two with one set number or one tag. -/
structure TableOk (t : SetTable) : Prop where
  atMost64 : t.records.length ≤ 64
  numbers : (t.records.map SetRec.number).Nodup
  tags : (t.records.map SetRec.tag).Nodup

/-- The priority of set n in a table, 0 when no record holds it. -/
def SetTable.priority (t : SetTable) (n : Nat) : Nat :=
  match t.records.find? fun r => r.number == n with
  | some r => r.priority
  | none => 0

/-- Whether set a stands before set b in the Reprint Queue (R10): by priority from 7 down to 0, and within one priority by
the moment each became DIVERTED. Of two sets the earlier one is the one already reported, or the one nearer the head of
the Completion Order, which is in the order of those moments (R9). -/
def SetTable.reprintsBefore (t : SetTable) (a b : Nat) : Prop :=
  t.priority b < t.priority a ∨
    (t.priority b = t.priority a ∧
      (a ∉ t.completion ∨ (b ∈ t.completion ∧ t.completion.idxOf a < t.completion.idxOf b)))

/-- The outcome queues (R8, R9, R10, R19), beside the table's own distinctness: the Completion Order names each terminal
set not yet reported once and nothing else; the Reprint Queue names DIVERTED sets with a cause other than ROUTED, each at
most once, in its order; a reported record is held only for the Reprint Queue. -/
structure OutcomesOk (t : SetTable) : Prop where
  table : TableOk t
  completionOnce : t.completion.Nodup
  completionEnded : ∀ n ∈ t.completion, ∃ r ∈ t.records, r.number = n ∧ r.state.terminal = true ∧ r.reported = false
  completionWhole : ∀ r ∈ t.records, r.state.terminal = true → r.reported = false → r.number ∈ t.completion
  reportedHeld : ∀ r ∈ t.records, r.reported = true → r.state.terminal = true ∧ r.number ∈ t.reprint
  reprintOnce : t.reprint.Nodup
  reprintDiverted : ∀ n ∈ t.reprint, ∃ r ∈ t.records, r.number = n ∧ r.reprints = true
  reprintOrdered : t.reprint.Pairwise t.reprintsBefore

/-- The capacities (R63, R65, R90, R27): at most 48 Transit List entries, at most 32 queued firings, sheet ids below
65,536, a speed sample of at most 255. -/
structure RoomOk (s : State) : Prop where
  sheets : s.track.list.length ≤ 48
  firings : s.firing.queue.length ≤ 32
  sheetIds : s.track.nextId < 65536
  speed : s.web.speed ≤ 255

/-- Two records of one set that differ in nothing the job controller declared (R1, R12). -/
structure SameDeclared (r r' : SetRec) : Prop where
  number : r'.number = r.number
  jobId : r'.jobId = r.jobId
  pages : r'.pages = r.pages
  priority : r'.priority = r.priority
  program : r'.program = r.program

/-! ### One microsecond -/

/-- A running timer is one µs nearer its end; a stopped one stays stopped (R26). -/
def countedDown (t : Timer) : Timer := t.map fun n => n - 1

/-- A count of whole ms and its fraction in µs, one µs later (R168). -/
def msCounted (on : Bool) (count fraction : Nat) : Nat × Nat :=
  if on = false then (count, fraction)
  else if fraction + 1 < 1000 then (count, fraction + 1)
  else (satInc count, 0)

/-- What one µs does to port p (R170, R173, R177): the frame in progress is one µs nearer its 10 ms; of the frames to send
the first goes out, 23,040 bytes in 1,000,000 µs, and leaves when it is sent whole. -/
structure PortTicked (a b : PortState) : Prop where
  link : b.link = a.link
  queue : b.queue = a.queue
  conds : b.conds = a.conds
  rx : b.rx = a.rx.map fun f => { f with timer := f.timer - 1 }
  silent : a.tx = [] → b.tx = [] ∧ b.txSent = a.txSent ∧ b.txPhase = 0
  within : ∀ f rest, a.tx = f :: rest → a.txPhase + 23040 < 1000000 →
    b.tx = a.tx ∧ b.txSent = a.txSent ∧ b.txPhase = a.txPhase + 23040
  byte : ∀ f rest, a.tx = f :: rest → 1000000 ≤ a.txPhase + 23040 → a.txSent + 1 < (frameBytes f).length →
    b.tx = a.tx ∧ b.txSent = a.txSent + 1 ∧ b.txPhase = a.txPhase + 23040 - 1000000
  whole : ∀ f rest, a.tx = f :: rest → 1000000 ≤ a.txPhase + 23040 → (frameBytes f).length ≤ a.txSent + 1 →
    b.tx = rest ∧ b.txSent = 0 ∧ b.txPhase = a.txPhase + 23040 - 1000000

/-- t is s one µs later (R26, R27, R168, R170): every running timer and the time to the next speed update count down, run
time counts while the line is RUNNING and hold time while HOLD is asserted, each port sends, and nothing else changes. -/
structure OneMicrosecond (s t : State) : Prop where
  ports : ∀ p, PortTicked (s.port p) (t.port p)
  web : t.web = { s.web with toUpdate := s.web.toUpdate - 1 }
  acc : t.acc = { s.acc with
    jogInterval := countedDown s.acc.jogInterval
    holdTimer := countedDown s.acc.holdTimer
    jogTimeout := countedDown s.acc.jogTimeout
    releaseTimeout := countedDown s.acc.releaseTimeout
    dumpTimeout := countedDown s.acc.dumpTimeout }
  folder : t.folder = { s.folder with timer := countedDown s.folder.timer }
  belt : t.belt = { s.belt with
    travel := countedDown s.belt.travel
    gateTimeout := countedDown s.belt.gateTimeout
    offerTimer := countedDown s.belt.offerTimer }
  line : t.line = { s.line with
    tally := { s.line.tally with
      runTime := (msCounted s.permit s.line.tally.runTime s.line.runFraction).1
      holdTime := (msCounted s.holdLine s.line.tally.holdTime s.line.holdFraction).1 }
    runFraction := (msCounted s.permit s.line.tally.runTime s.line.runFraction).2
    holdFraction := (msCounted s.holdLine s.line.tally.holdTime s.line.holdFraction).2 }
  rest : t.reader = s.reader ∧ t.table = s.table ∧ t.track = s.track ∧ t.firing = s.firing ∧ t.ev = s.ev ∧
    t.choices = s.choices ∧ t.pending = s.pending

/-! ### What a command leaves as it was -/

/-- The parts of the state: its blocks, and the model's own fields. -/
inductive Part where
  | links
  | web
  | reader
  | table
  | track
  | firing
  | acc
  | folder
  | belt
  | line
  | ev
  | choices
  | pending
  deriving DecidableEq, Repr

/-- A part is the same in t as in s. -/
def Part.same (s t : State) : Part → Prop
  | .links => t.links = s.links
  | .web => t.web = s.web
  | .reader => t.reader = s.reader
  | .table => t.table = s.table
  | .track => t.track = s.track
  | .firing => t.firing = s.firing
  | .acc => t.acc = s.acc
  | .folder => t.folder = s.folder
  | .belt => t.belt = s.belt
  | .line => t.line = s.line
  | .ev => t.ev = s.ev
  | .choices => t.choices = s.choices
  | .pending => t.pending = s.pending

/-- t differs from s in nothing but the parts named. -/
def SameExcept (changed : List Part) (s t : State) : Prop := ∀ x, x ∉ changed → x.same s t

/-- Two states of a port that differ in nothing but the pending conditions and frames of kind 81h produced for sending. -/
structure OnlyNotices (a b : PortState) : Prop where
  link : b.link = a.link
  queue : b.queue = a.queue
  rx : b.rx = a.rx
  tx : ∃ notices, b.tx = a.tx ++ notices ∧ ∀ f ∈ notices, f.kind = noticeKind

/-! ### Requests and replies (R174, R175) -/

/-- Port p, its link UP, takes request r next: it is the head of the queue and no reply is still to be sent. -/
structure Waits (p : Port) (r : Request) (s : State) : Prop where
  up : (s.port p).link = .up
  sent : (s.port p).replying = false
  head : (s.port p).queue.head? = some r

/-- Port p takes next a request of kind k with a body, which its owning rule will decide: the kind is one of the port's,
the request carries no overrun mark, and no sweep runs. -/
structure Asks (p : Port) (k : RequestKind) (body : List Byte) (s : State) : Prop where
  waits : Waits p { kind := k.code, body := body, overrun := false } s
  allowed : k.allowedOn p = true
  noSweep : s.line.sweep = false

/-- s once port p has taken the head of its queue and produced the reply to it, and nothing else has changed. -/
def answered (p : Port) (kind : Byte) (r : Result) (data : List Byte) (s : State) : State :=
  { s.setPort p
      { s.port p with
        queue := (s.port p).queue.tail
        tx := (s.port p).tx ++
          [{ kind := replyKind, body := kind :: byte r.code :: (topBytes s p ++ data) }] } with
    ev := Event.none }

/-- From s to t port p took the head of its queue and answered it: the reply carries the kind, the result and the data, and
only notices follow it; the other ports gained nothing but notices. -/
structure Replied (p : Port) (k : RequestKind) (r : Result) (data : List Byte) (s t : State) : Prop where
  link : (t.port p).link = (s.port p).link
  queue : (t.port p).queue = (s.port p).queue.tail
  rx : (t.port p).rx = (s.port p).rx
  tx : ∃ top notices,
    (t.port p).tx = (s.port p).tx ++ { kind := replyKind, body := k.code :: byte r.code :: (top ++ data) } :: notices ∧
      top.length = 6 ∧ ∀ f ∈ notices, f.kind = noticeKind
  others : ∀ q, q ≠ p → OnlyNotices (s.port q) (t.port q)

/-- The line goes from s into FAULTED with a first cause and a set number (R159). -/
structure FaultsWith (c : LineCause) (set : Option Nat) (s t : State) : Prop where
  before : s.line.state ≠ .faulted
  state : t.line.state = .faulted
  cause : t.line.record.cause = some c
  set : t.line.record.set = set

/-- Nothing in the Transit List of set n can still be turned to waste (R85). -/
def NoneToTurn (n : Nat) (s : State) : Prop := ∀ e ∈ s.track.list, turns n e = false

/-- The Mark Reader as it enters HUNT at P (R47). -/
def huntingAt (p : Pos) (r : MarkReader) : MarkReader :=
  { r with state := .hunt, openRow := none, rowRef := none, miss := 0, huntStart := p }

end Sys2Proof.Machine
end

