-- ==== Sys2Proof/Certificates/Slice0/Obligations.lean ====
section
/-! DEFINITION. The statements about the model, for the provers. Each is a def of type Prop; OBLIGATIONS.json lists them. -/

open Sys2Proof
open Sys2Proof.Machine

/-! ### The step, and what every step keeps -/

/-- A step with a command at the front of the queue is that command's meaning on the state with the queue's rest. -/
def Obligations.StepRunsTheFront : Prop :=
  ∀ (c : Instr) (rest : List Instr) (s : State),
    step { s with pending := c :: rest } = exec c { s with pending := rest }

/-- R26, R27, R168, R170: while no command waits, one µs passes in which every running timer counts down, the run time and
the hold time count and the ports send; nothing else changes. That a request which may be taken is taken before, and that
what runs out becomes the next command, is the model's choice (assumption 1). -/
def Obligations.StepOnAnEmptyQueue : Prop :=
  (∀ s : State, OneMicrosecond s s.ticked) ∧
    ∀ s : State, s.pending = [] →
      (∀ c, takings s = [c] → step s = .next { s with pending := [c] }) ∧
      (takings s = [] → dueCommands s.ticked = [] → ∃ t, step s = .next t ∧ OneMicrosecond s t) ∧
      (∀ c, takings s = [] → dueCommands s.ticked = [c] → step s = .next { s.ticked with pending := [c] })

/-- R153, R159, R165: RUNNING only with GUARD closed, a fault record exactly while FAULTED, FAULTED while the sweep runs:
every step keeps it. -/
def Obligations.LineStaysSound : Prop :=
  ∀ s t : State, LineOk s.line → step s = .next t → LineOk t.line

/-- R170, R171, R174, R178, Table 10-4: every port's bounds are kept by every step, and its pending conditions stay in
priority order without repeats. -/
def Obligations.PortsStayInBounds : Prop :=
  ∀ s t : State, (∀ p, PortOk p (s.port p)) → step s = .next t → ∀ p, PortOk p (t.port p)

/-- R126, R139: an IDLE folder holds no set, and belt, folder and release together hold at most 3 sets; every step keeps
it. -/
def Obligations.BeltAndFolderHoldAtMostThree : Prop :=
  ∀ s t : State, BeltOk s → step s = .next t → BeltOk t

/-- R122: JOG_FORCED stands in the hold-cause set exactly while the jog obligation is FORCED; every step keeps it. -/
def Obligations.JogForcedFollowsTheObligation : Prop :=
  ∀ s t : State, JogOk s → step s = .next t → JogOk t

/-- R2: at most 64 records, no two with one set number or one tag; every step keeps it. -/
def Obligations.TableStaysDistinct : Prop :=
  ∀ s t : State, TableOk s.table → step s = .next t → TableOk t.table

/-- R8, R9, R10, R19: the Completion Order names each terminal set not yet reported, once; the Reprint Queue names DIVERTED
sets with a cause other than ROUTED, each at most once, by priority and within one priority by the moment they became
DIVERTED. Every step keeps it. -/
def Obligations.OutcomeQueuesStayInOrder : Prop :=
  ∀ s t : State, OutcomesOk s.table → step s = .next t → OutcomesOk t.table

/-- R27, R63, R65, R90: the capacities of the Transit List and the Firing Queue, and the ranges of sheet ids and of the
speed sample; every step keeps them. -/
def Obligations.CapacitiesHold : Prop :=
  ∀ s t : State, RoomOk s → step s = .next t → RoomOk t

/-- The state after reset has every one of these invariants. -/
def Obligations.ResetHasTheInvariants : Prop :=
  LineOk State.reset.line ∧ (∀ p, PortOk p (State.reset.port p)) ∧ BeltOk State.reset ∧ JogOk State.reset ∧
    OutcomesOk State.reset.table ∧ RoomOk State.reset

/-- R6: a fault cause once recorded against a set stays its cause as long as its record is held. -/
def Obligations.FirstCauseStays : Prop :=
  ∀ (s t : State) (r r' : SetRec) (k : SetCause), TableOk s.table → step s = .next t →
    r ∈ s.table.records → r.cause = some k → r' ∈ t.table.records → r'.number = r.number → r'.cause = some k

/-- R152, R155, R159, R162: FAULTED is left only by PURGE, RUNNING is entered only by START, and while the line is FAULTED
its first cause and the set number with it stay, but for a power-up. -/
def Obligations.LineStateGates : Prop :=
  ∀ (c : Instr) (s t : State), exec c s = .next t →
    (s.line.state = .faulted → t.line.state ≠ .faulted → c = .purge) ∧
    (s.line.state ≠ .running → t.line.state = .running → c = .start) ∧
    ((∀ a b, c ≠ .powerUp a b) → s.line.state = .faulted → t.line.state = .faulted →
      t.line.record.cause = s.line.record.cause ∧ t.line.record.set = s.line.record.set)

/-- Table 1-1, R12, R23, R34, R44: what a set declares changes only by AMEND_SET, the web profile only by LOAD_PROFILE, the
geometry only by LOAD_GEOMETRY, the web position only by ENCODER_STEP, but for a cold start. -/
def Obligations.WhoMayChangeWhat : Prop :=
  ∀ (c : Instr) (s t : State), (∀ closed, c ≠ .powerUp false closed) → TableOk s.table → exec c s = .next t →
    (c ≠ .amendSet → ∀ r ∈ s.table.records, ∀ r' ∈ t.table.records, r'.number = r.number → SameDeclared r r') ∧
    (c ≠ .loadProfile → t.table.profile = s.table.profile ∧ t.table.profileLoaded = s.table.profileLoaded) ∧
    (c ≠ .loadGeometry → t.line.geometry = s.line.geometry ∧ t.line.geometryLoaded = s.line.geometryLoaded) ∧
    ((∀ d, c ≠ .encoderStep d) → t.web.position = s.web.position)

/-! ### Encodings and arithmetic -/

/-- A frame as Table 10-1 and R172 lay it out, received whole on a port that is UP with no frame in progress, enters the
queue as exactly its message kind and body (R173, R174); when 4 requests wait it takes the place of the newest, marked
overrun, and raises LINK_FAULT (R174). -/
def Obligations.FrameReceivedIsTheFrameSent : Prop :=
  ∀ (p : Port) (kind : Byte) (body : List Byte) (s : State), body.length ≤ 119 → (s.port p).link = .up →
    (s.port p).rx = none →
    ((s.port p).queue.length < 4 →
      exec (.goodFrame p ((frameBytes { kind := kind, body := body }).map fun b => { value := b, stop := true })) s =
        .next { s.setPort p
          { s.port p with queue := (s.port p).queue ++ [{ kind := kind, body := body, overrun := false }] } with
          ev := Event.none }) ∧
    (4 ≤ (s.port p).queue.length →
      ∃ t, exec (.goodFrame p ((frameBytes { kind := kind, body := body }).map fun b => { value := b, stop := true })) s =
          .next t ∧
        (t.port p).queue = (s.port p).queue.dropLast ++ [{ kind := kind, body := body, overrun := true }] ∧
        (t.port p).rx = none ∧ t.isPending (linkFaultOf p) = true ∧ SameExcept [.links, .ev] s t)

/-- R40, R42: a valid codeword decodes CLEAN; with any one cell wrong it decodes CORRECTED with the same payload; with any
two cells wrong it is UNREAD. -/
def Obligations.OneWrongCellIsCorrectedTwoAreDetected : Prop :=
  ∀ c : Cells, syndrome c = 0 → parityOdd c = false →
    decodeCells c = (.clean, some c) ∧
    (∀ i, i < 32 → ∃ c', decodeCells (invertCell c i) = (.corrected, some c') ∧ payload c' = payload c) ∧
    (∀ i j, i < 32 → j < 32 → i ≠ j → decodeCells (invertCell (invertCell c i) j) = (.unread, none))

/-- R30: the lead, its largest value and its value at rest; the knife lead time is taken for knife firings and the gate
lead time for gate firings; a firing that joins the queue has its fire point at the lead of the speed sample in force, and
after each speed update every queued firing has it at the lead of the new one. No entry of the knife is lost but one whose
new fire point P has reached. -/
def Obligations.LeadFollowsTheSpeed : Prop :=
  (∀ l w : Nat, lead l w = (l * w + 2000) / 4000) ∧
    (∀ l w : Nat, l ≤ 20000 → w ≤ 255 → lead l w ≤ 1275) ∧ (∀ l : Nat, lead l 0 = 0) ∧
    (∀ (s : State) (row target : Pos) (id : Nat) (d : Disposition),
      firePointOf s (.knife row) target = minus target (lead s.line.geometry.knifeLead s.web.speed) ∧
        firePointOf s (.gate id d) target = minus target (lead s.line.geometry.gateLead s.web.speed)) ∧
    (∀ (a : Actuator) (target : Pos) (d : Disposition) (s : State), s.firing.queue.length < 32 →
      ahead s.web.position (firePointOf s a target) = true →
      ∀ f, f ∈ (makeFiring a target d s).1.firing.queue ↔
        f ∈ s.firing.queue ∨ f = { actuator := a, target := target, firePoint := firePointOf s a target }) ∧
    ∀ s t : State, s.line.sweep = false → exec .speedUpdate s = .next t →
      (∀ f ∈ t.firing.queue, f.firePoint = firePointOf t f.actuator f.target) ∧
      ∀ f ∈ s.firing.queue, ∀ row, f.actuator = .knife row →
        ahead t.web.position (firePointOf t f.actuator f.target) = true →
        { f with firePoint := firePointOf t f.actuator f.target } ∈ t.firing.queue

/-- R31: the clearance, its largest value and its value at rest; the short jog time is half the full one, rounded down. -/
def Obligations.ClearanceCoversTheStroke : Prop :=
  (∀ t w m : Nat, (clearance t w m - m) * 4000 < t * w + 4000 ∧ t * w ≤ (clearance t w m - m) * 4000 ∧
      m ≤ clearance t w m) ∧
    (∀ t m : Nat, clearance t 0 m = m) ∧
    (∀ t w m : Nat, t ≤ 100000 → w ≤ 255 → m ≤ 1000 → clearance t w m ≤ 7375) ∧
    ∀ s : State,
      clearanceFull s = clearance (s.line.geometry.fullJog * 1000) s.web.speed s.line.geometry.jogMargin ∧
        clearanceShort s = clearance (s.line.geometry.fullJog / 2 * 1000) s.web.speed s.line.geometry.jogMargin ∧
        (10 ≤ s.line.geometry.fullJog → s.line.geometry.fullJog ≤ 100 →
          5 ≤ s.line.geometry.shortJog ∧ s.line.geometry.shortJog ≤ 50)

/-! ### Requests -/

/-- R175 steps 1 to 3: a request marked overrun is answered OVERRUN; one that is none of its port's NOT_ALLOWED; and while
the sweep runs every request but READ STATUS BUSY. Nothing else changes. -/
def Obligations.PortAnswersBeforeTheRule : Prop :=
  ∀ (p : Port) (s : State),
    (∀ (k : RequestKind) (body : List Byte), k.allowedOn p = true →
      (Waits p { kind := k.code, body := body, overrun := true } s →
        exec (takeCommand p k) s = .next (answered p k.code .overrun [] s)) ∧
      (Waits p { kind := k.code, body := body, overrun := false } s → s.line.sweep = true → k ≠ .readStatus →
        exec (takeCommand p k) s = .next (answered p k.code .busy [] s))) ∧
    ∀ r : Request, Waits p r s → requestKindOn p r.kind = none →
      exec (.undefinedRequestKind p) s =
        .next (answered p r.kind (if r.overrun then .overrun else .notAllowed) [] s)

/-- The owning rules' "changes nothing": a request that is answered neither DONE nor DONE_CLAMPED nor NONE changes nothing
but its port's queue and frames to send. -/
def Obligations.RefusedRequestChangesNothing : Prop :=
  ∀ (p : Port) (k : RequestKind) (body : List Byte) (s : State), Asks p k body s →
    ∃ (t : State) (r : Result) (data : List Byte), exec (takeCommand p k) s = .next t ∧ Replied p k r data s t ∧
      (r = .done ∨ r = .doneClamped ∨ r = .none ∨ t = answered p k.code r data s)

/-- R16, R61, R169, R180: the reading requests report the record, the Mark Capture record, the tally and the status, and
change nothing else. The codes and places of the enumerated and optional fields in these replies are the model's reading
of R172 (assumption 13). READ STATUS is answered while the sweep runs too: what it then reports of the blocks is a free
value, whatever it is, and the draw counter, the model's own, goes on (assumption 6). -/
def Obligations.ReadingRequestsReport : Prop :=
  ∀ (p : Port) (body : List Byte) (n : Nat) (s : State),
    (Asks p .readStatus [] s →
      exec (.readStatus p) s = .next (answered p RequestKind.readStatus.code .done (statusBytes s s p) s)) ∧
    (Waits p { kind := RequestKind.readStatus.code, body := [], overrun := false } s → s.line.sweep = true →
      exec (.readStatus p) s = .next
        { answered p RequestKind.readStatus.code .done (statusBytes (statusView s) s p) s with
          choices := s.choices + 1 }) ∧
    (Asks p .readTally [] s →
      exec (.readTally p) s = .next (answered p RequestKind.readTally.code .done (tallyBytes s.line.tally) s)) ∧
    (Asks p .readCapture [] s →
      exec (.readCapture p) s =
        .next (answered p RequestKind.readCapture.code .done (captureBytes s.reader.capture) s)) ∧
    (Asks .job .querySet body s → parseSetNumber body = some n → s.findSet n = none →
      exec .querySet s = .next (answered .job RequestKind.querySet.code .noSuchSet [] s)) ∧
    (∀ r, Asks .job .querySet body s → parseSetNumber body = some n → s.findSet n = some r →
      exec .querySet s = .next (answered .job RequestKind.querySet.code .done (recordBytes r) s))

/-- R33, R34, R45, R46, R47, R89: an accepted LOAD PROFILE installs the profile with its values clamped, the Mark Reader
enters HUNT at P, and the reading set reference and the orphan-run flag are reset. An accepted LOAD GEOMETRY merges and
clamps its values and installs them whole. -/
def Obligations.LoadingRequestsInstall : Prop :=
  ∀ (body : List Byte) (s : State), s.stationBusy = false → s.line.state ≠ .running →
    (∀ r ∈ s.table.records, r.state.inMachine = false) →
    (∀ (x : Profile) (codes : List Nat), Asks .job .loadProfile body s → parseProfile body = some (x, codes) →
      x.mergeOffset < x.formLength →
      exec .loadProfile s = .next
        { answered .job RequestKind.loadProfile.code (if codes = [] then .done else .doneClamped)
            (if codes = [] then [] else codeList codes) s with
          table := { s.table with profile := x, profileLoaded := true }
          reader := huntingAt s.web.position s.reader
          track := { s.track with ref := .none, orphanRun := false } }) ∧
    (∀ es : List GeometryEntry, Asks .line .loadGeometry body s → parseGeometry body = some es →
      geometryDisorder (mergeGeometry s.line.geometry es) = none →
      exec .loadGeometry s = .next
        { answered .line RequestKind.loadGeometry.code (if clampedGeometry es = [] then .done else .doneClamped)
            (if clampedGeometry es = [] then [] else codeList (clampedGeometry es)) s with
          line := { s.line with geometry := mergeGeometry s.line.geometry es, geometryLoaded := true } })

/-- R11: an accepted LOAD SET appends a PENDING record made from its descriptor. -/
def Obligations.LoadSetCreatesARecord : Prop :=
  ∀ (body : List Byte) (d : Descriptor) (s : State), Asks .job .loadSet body s → s.table.records.length < 64 →
    parseDescriptor body = some d → s.findSet d.number = none → s.findTag d.record.tag = none →
    programFault d.pages d.steps = none →
    ∃ r data, (r = .done ∨ r = .doneClamped) ∧ d.record.state = .pending ∧ d.record.number = d.number ∧
      exec .loadSet s = .next
        { answered .job RequestKind.loadSet.code r data s with
          table := { s.table with records := s.table.records ++ [d.record] } }

/-- R12, R13, R111: an accepted AMEND SET gives the record the merged declared fields; unless the set is COLLECTED in the
accumulator and its program changed, nothing else changes. -/
def Obligations.AmendSetMerges : Prop :=
  ∀ (body : List Byte) (r : SetRec) (raw : Amendment) (a : Amend) (s : State), Asks .job .amendSet body s →
    4 ≤ body.length → s.findSet (leNat (body.take 4)) = some r → parseAmendment (body.drop 4) = some raw →
    raw.read = some a → a.wrongState r = false →
    programFault (a.merge r).pages ((a.merge r).program.map some) = none →
    ∃ t res data, exec .amendSet s = .next t ∧ Replied .job .amendSet res data s t ∧ (res = .done ∨ res = .doneClamped) ∧
      (∃ r', t.findSet r.number = some r' ∧ SameDeclared (a.merge r) r') ∧
      SameExcept [.links, .table, .acc, .folder, .line, .ev] s t ∧
      (r.state ≠ .collected ∨ s.acc.held ≠ some r.number ∨ (a.merge r).program = r.program →
        t.findSet r.number = some (a.merge r) ∧ SameExcept [.links, .table, .ev] s t)

/-- R14: CANCEL SET makes a PENDING set CANCELLED, which joins the tail of the Completion Order and keeps its fields; a
terminal set is refused WRONG_STATE, a set in any other state IN_MACHINE, an unknown set number NO_SUCH_SET. -/
def Obligations.CancelSetEndsAPendingSet : Prop :=
  ∀ (body : List Byte) (n : Nat) (s : State), Asks .job .cancelSet body s → parseSetNumber body = some n →
    (∀ r, s.findSet n = some r → r.state = .pending →
      ∃ t, exec .cancelSet s = .next t ∧ Replied .job .cancelSet .done [] s t ∧
        t.findSet n = some { r with state := .cancelled } ∧ t.table.completion = s.table.completion ++ [n] ∧
        t.table.reprint = s.table.reprint ∧ t.line.tally = s.line.tally ∧
        SameExcept [.links, .table, .track, .acc, .folder, .line, .ev] s t) ∧
    (∀ r, s.findSet n = some r → r.state = .active ∨ r.state = .collected ∨ r.state = .held ∨ r.state = .waiting ∨
        r.state = .folding ∨ r.state = .onBelt ∨ r.state = .offered ∨ r.state = .rejecting →
      exec .cancelSet s = .next (answered .job RequestKind.cancelSet.code .inMachine [] s)) ∧
    (∀ r, s.findSet n = some r → r.state = .delivered ∨ r.state = .diverted ∨ r.state = .cancelled →
      exec .cancelSet s = .next (answered .job RequestKind.cancelSet.code .wrongState [] s)) ∧
    (s.findSet n = none → exec .cancelSet s = .next (answered .job RequestKind.cancelSet.code .noSuchSet [] s))

/-- R15 steps 4 and 5, R113: RELEASE SET pre-releases a set that has not come to its HOLD step; it ends the hold of the HELD
set, whose hold timer stops and whose HOLD is passed. -/
def Obligations.ReleaseSetEndsAHold : Prop :=
  ∀ (body : List Byte) (n : Nat) (r : SetRec) (s : State), Asks .job .releaseSet body s → parseSetNumber body = some n →
    s.findSet n = some r → (holdOf r.program).isSome →
    (r.cause ≠ some .holdExpired → r.preReleasable = true →
      ∃ t, exec .releaseSet s = .next t ∧ Replied .job .releaseSet .done [] s t ∧
        t.findSet n = some { r with preReleased := true } ∧ SameExcept [.links, .table, .ev] s t) ∧
    (r.cause = none → r.state = .held → s.acc.held = some n →
      ∃ t r', exec .releaseSet s = .next t ∧ Replied .job .releaseSet .done [] s t ∧ t.acc.holdTimer = none ∧
        t.findSet n = some r' ∧ SameDeclared r r' ∧ StepKind.hold ∈ r'.stepsPassed ∧ r'.state ≠ .held ∧
        SameExcept [.links, .table, .acc, .folder, .line, .ev] s t)

/-- R17, R18, R19: the two collecting requests return the record at the head, remove it from its list, and free the
record once it is reported and not in the Reprint Queue; on an empty list they answer NONE and change nothing. The codes
and places of the enumerated and optional fields in the two replies are the model's reading of R172 (assumption 13). -/
def Obligations.CollectingRequestsReturnTheHead : Prop :=
  ∀ s : State,
    (Asks .job .takeCompletion [] s → s.table.completion = [] →
      exec .takeCompletion s = .next (answered .job RequestKind.takeCompletion.code .none [] s)) ∧
    (Asks .job .takeReprint [] s → s.table.reprint = [] →
      exec .takeReprint s = .next (answered .job RequestKind.takeReprint.code .none [] s)) ∧
    ∀ (n : Nat) (rest : List Nat) (r : SetRec), s.findSet n = some r →
      (Asks .job .takeCompletion [] s → s.table.completion = n :: rest →
        ∃ t, exec .takeCompletion s = .next t ∧
          Replied .job .takeCompletion .done (recordBytes { r with reported := true }) s t ∧
          t.table.completion = rest ∧ t.table.reprint = s.table.reprint ∧
          (n ∈ s.table.reprint → t.findSet n = some { r with reported := true }) ∧
          (n ∉ s.table.reprint → t.findSet n = none)) ∧
      (Asks .job .takeReprint [] s → s.table.reprint = n :: rest → n ∉ rest →
        ∃ t, exec .takeReprint s = .next t ∧ Replied .job .takeReprint .done (reprintBytes r) s t ∧
          t.table.reprint = rest ∧ t.table.completion = s.table.completion ∧
          (r.reported = false → t.findSet n = some r) ∧ (r.reported = true → t.findSet n = none))

/-- R155: a granted START makes the line RUNNING, clears the speed flags, starts a hunt under way afresh at P, and raises
HOLD_CHANGED when a hold cause stands. -/
def Obligations.StartGrantsTheRun : Prop :=
  ∀ s : State, Asks .line .start [] s → s.table.profileLoaded = true → s.line.geometryLoaded = true →
    s.line.guard = .closed → s.line.state = .stopped →
    ∃ t, exec .start s = .next t ∧ Replied .line .start .done [] s t ∧ t.permit = true ∧
      t.line = { s.line with state := .running } ∧ t.web = { s.web with reverse := false, speedHigh := false } ∧
      (s.reader.state = .hunt → t.reader = { s.reader with huntStart := s.web.position }) ∧
      (s.reader.state = .locked → t.reader = s.reader) ∧
      (s.line.holds ≠ HoldSet.none → t.isPending .holdChanged = true ∧ t.holdLine = true) ∧
      SameExcept [.links, .web, .reader, .line, .ev] s t

/-- R156: STOP makes a RUNNING line STOPPED with the stop point at P, both output lines deasserted, and changes nothing
else; in STOPPED or FAULTED it is answered WRONG_STATE and during the sweep BUSY, and changes nothing. -/
def Obligations.StopKeepsTheContents : Prop :=
  ∀ s : State,
    (Asks .line .stop [] s → s.line.state = .running →
      ∃ t, exec .stop s = .next t ∧ t.permit = false ∧ t.holdLine = false ∧
        t = { answered .line RequestKind.stop.code .done [] s with
          line := { s.line with state := .stopped, stopPoint := s.web.position } }) ∧
    (Asks .line .stop [] s → s.line.state ≠ .running →
      exec .stop s = .next (answered .line RequestKind.stop.code .wrongState [] s)) ∧
    (Waits .line { kind := RequestKind.stop.code, body := [], overrun := false } s → s.line.sweep = true →
      exec .stop s = .next (answered .line RequestKind.stop.code .busy [] s))

/-- R22, R161, R162: PURGE writes the machine's sets off and leaves a clean STOPPED line. The sets join the Completion Order
in ascending set number and, unless ROUTED, the Reprint Queue; each is counted; an offer that stands is withdrawn. -/
def Obligations.PurgeLeavesACleanLine : Prop :=
  ∀ s : State, Asks .line .purge [] s → s.line.state = .faulted → s.stationBusy = false → s.web.speed = 0 →
    TableOk s.table →
    ∃ t, exec .purge s = .next t ∧ Replied .line .purge .done [] s t ∧
      t.line.state = .stopped ∧ t.line.record = FaultRecord.none ∧ t.line.stopPoint = s.web.position ∧
      t.line.holds = HoldSet.none ∧ t.track = { s.track with list := [], ref := .none, orphanRun := false } ∧
      t.firing = { s.firing with queue := [], planned := s.firing.actual } ∧ t.acc = Accumulator.empty ∧
      t.folder = { s.folder with state := .idle, set := none, timer := none } ∧
      t.belt = Delivery.empty s.belt.readiness ∧ t.reader = huntingAt s.web.position s.reader ∧ t.web = s.web ∧
      t.table.completion = s.table.completion ++ setsWhere s (fun r => r.state.inMachine) ∧
      (∀ r ∈ s.table.records, r.state.inMachine = true →
        { r with state := .diverted, cause := some (r.cause.getD .purged) } ∈ t.table.records) ∧
      (∀ r ∈ s.table.records, r.state.inMachine = false → r ∈ t.table.records) ∧
      (∀ n, n ∈ t.table.reprint ↔ n ∈ s.table.reprint ∨
        ∃ r ∈ s.table.records, r.number = n ∧ r.state.inMachine = true ∧ r.cause.getD .purged ≠ .routed) ∧
      (s.line.tally.setsDiverted ≤ tallyMax →
        t.line.tally = { s.line.tally with
          setsDiverted := min tallyMax
            (s.line.tally.setsDiverted + (s.table.records.filter fun r => r.state.inMachine).length) }) ∧
      (∀ n, s.belt.offered = some n → t.isPending .withdrawn = true ∧ t.isPending .offer = false)

/-- R163, R22: RESET LINE empties the machine's collections, marks its sets INTERRUPTED and faults the line. -/
def Obligations.ResetLineAbandonsTheMachine : Prop :=
  ∀ s : State, Asks .line .resetLine [] s →
    ∃ t, exec .resetLine s = .next t ∧ Replied .line .resetLine .done [] s t ∧ t.line.state = .faulted ∧
      (s.line.state ≠ .faulted → t.line.record = { cause := some .lineReset, set := none, further := false }) ∧
      (s.line.state = .faulted → t.line.record = { s.line.record with further := true }) ∧
      t.line.holds = HoldSet.none ∧ t.track = { s.track with list := [], ref := .none, orphanRun := false } ∧
      t.firing = { s.firing with queue := [], planned := s.firing.actual } ∧ t.acc = Accumulator.empty ∧
      t.folder.state = .idle ∧ t.folder.set = none ∧ t.belt = Delivery.empty s.belt.readiness ∧
      t.reader = huntingAt s.web.position s.reader ∧
      t.table = { s.table with records := s.table.records.map fun r =>
        if r.state.mayFail then { r with state := .rejecting, cause := some (r.cause.getD .interrupted) } else r } ∧
      SameExcept [.links, .reader, .table, .track, .firing, .acc, .folder, .belt, .line, .ev] s t

/-- R61, R169: CLEAR CAPTURE empties the Mark Capture record and CLEAR TALLY sets the ten counters and both fractions to
0; neither changes anything else. -/
def Obligations.ClearingRequestsClear : Prop :=
  ∀ s : State,
    (Asks .line .clearCapture [] s →
      exec .clearCapture s = .next
        { answered .line RequestKind.clearCapture.code .done [] s with
          reader := { s.reader with
            capture := { severity := .none, lane := none, row := none, syndrome := none, parityOdd := none,
                         tag := none } } }) ∧
    (Asks .line .clearTally [] s →
      exec .clearTally s = .next
        { answered .line RequestKind.clearTally.code .done [] s with
          line := { s.line with
            tally := { rowsRead := 0, sheetsTracked := 0, marksCorrected := 0, sheetsUnread := 0, lateFirings := 0,
                       setsDelivered := 0, setsDiverted := 0, folds := 0, runTime := 0, holdTime := 0 }
            runFraction := 0
            holdFraction := 0 } })

/-- R145: the readiness requests set readiness; SET READY offers a head that waits at the belt end. -/
def Obligations.ReadinessRequestsSetReadiness : Prop :=
  ∀ s : State,
    (Asks .delivery .setNotReady [] s →
      exec .setNotReady s = .next
        { answered .delivery RequestKind.setNotReady.code .done [] s with
          belt := { s.belt with readiness := .notReady } }) ∧
    (Asks .delivery .setReady [] s →
      (s.belt.readiness = .ready →
        exec .setReady s = .next (answered .delivery RequestKind.setReady.code .done [] s)) ∧
      (s.belt.readiness = .notReady → s.belt.atEnd = false →
        exec .setReady s = .next
          { answered .delivery RequestKind.setReady.code .done [] s with belt := { s.belt with readiness := .ready } }) ∧
      ∀ n rest, s.belt.readiness = .notReady → s.belt.queue = n :: rest → s.belt.atEnd = true →
        s.setState n = some .onBelt →
        ∃ t, exec .setReady s = .next t ∧ Replied .delivery .setReady .done [] s t ∧
          t.belt = { s.belt with
            readiness := .ready
            offered := some n
            offerTimer := some (s.line.geometry.offerTimeout * 1000) } ∧
          t.setState n = some .offered ∧ t.isPending .offer = true ∧ SameExcept [.links, .table, .belt, .ev] s t)

/-- R147, R148: an ACCEPT of the offered set delivers it: it leaves the belt, joins the Completion Order and is counted. A
REFUSE of it ends the offer, gives the set REFUSED with the refuse code, and wants a belt gate stroke, which starts at once
when GUARD is closed and none is in flight. -/
def Obligations.OfferIsAnswered : Prop :=
  ∀ (body : List Byte) (n : Nat) (r : SetRec) (s : State), s.belt.offered = some n → s.findSet n = some r →
    (Asks .delivery .accept body s → parseSetNumber body = some n → r.state.terminal = false →
      ∃ t, exec .accept s = .next t ∧ Replied .delivery .accept .done [] s t ∧
        t.findSet n = some { r with state := .delivered } ∧ t.table.completion = s.table.completion ++ [n] ∧
        t.table.reprint = s.table.reprint ∧ t.belt.queue = s.belt.queue.tail ∧ t.belt.offered = none ∧
        t.belt.offerTimer = none ∧ t.isPending .offer = false ∧
        t.line.tally = { s.line.tally with setsDelivered := satInc s.line.tally.setsDelivered } ∧
        SameExcept [.links, .table, .track, .acc, .folder, .belt, .line, .ev] s t) ∧
    (∀ code, Asks .delivery .refuse body s → parseRefuse body = some (n, code) → s.belt.queue.head? = some n →
      r.state = .offered → r.cause = none → NoneToTurn n s →
      ∃ t, exec .refuse s = .next t ∧ Replied .delivery .refuse .done [] s t ∧
        t.findSet n = some
          { r with state := .rejecting, cause := some .refused, failingStep := stepIndex .route r.program,
                   refuseCode := some code } ∧
        t.belt.offered = none ∧ t.belt.offerTimer = none ∧ t.belt.queue = s.belt.queue ∧
        (s.line.guard = .closed → s.belt.stroke = false →
          t.belt.stroke = true ∧ t.belt.gateTimeout = some (s.line.geometry.actuatorTimeout * 1000)) ∧
        (s.line.guard = .opened → t.belt.strokeWanted = true) ∧ t.web = s.web ∧ t.reader = s.reader)

/-- R179: CLEAR CONDITION removes the named conditions, except that a level condition whose cause persists is pending
again at once; a code that is no condition of the port removes nothing. -/
def Obligations.ClearConditionClears : Prop :=
  ∀ (p : Port) (body : List Byte) (codes : List Nat) (s : State), Asks p .clearCondition body s →
    parseClear body = some codes →
    (namedConds p codes = none →
      exec (.clearCondition p) s = .next (answered p RequestKind.clearCondition.code .badField [] s)) ∧
    ∀ cs, namedConds p codes = some cs →
      ∃ t, exec (.clearCondition p) s = .next t ∧ Replied p .clearCondition .done [] s t ∧
        (∀ c, c ∈ cs → t.isPending c = (s.isPending c && (persisting s p).any fun x => x.cond == c)) ∧
        (∀ c, c ∉ cs → t.isPending c = s.isPending c) ∧ SameExcept [.links, .ev] s t

/-! ### Links -/

/-- R170, R173: a port that goes UP sends a notice for each pending condition, in the order in which they stand (which is
priority order: PortsStayInBounds), and nothing else changes. A frame whose 10 ms are over is discarded and LINK_FAULT is
pending. -/
def Obligations.LinkUpAndFrameTimeout : Prop :=
  ∀ (p : Port) (s : State),
    ((s.port p).link = .down →
      exec (.linkUp p) s = .next
        { s.setPort p
            { s.port p with link := .up, tx := (s.port p).tx ++ (s.port p).conds.map (noticeOf s p) } with
          ev := Event.none }) ∧
    (∀ f, (s.port p).rx = some f →
      ∃ t, exec (.frameTimeout p) s = .next t ∧ (t.port p).rx = none ∧ (t.port p).queue = (s.port p).queue ∧
        t.isPending (linkFaultOf p) = true ∧ (∀ q, q ≠ p → t.port q = s.port q) ∧ SameExcept [.links, .ev] s t)

/-- R145, R160, R171: a break empties the port and takes it DOWN, with only the level conditions pending whose cause
persists; on the line port it faults a RUNNING line, on the delivery port it sets NOT READY. -/
def Obligations.LinkBreakEmptiesThePort : Prop :=
  ∀ (p : Port) (s : State), (s.port p).link = .up →
    ∃ t, exec (.linkBreak p) s = .next t ∧ (t.port p).link = .down ∧ (t.port p).queue = [] ∧ (t.port p).rx = none ∧
      (t.port p).tx = [] ∧ (∀ c, c.port = p → t.isPending c = (persisting t p).any fun x => x.cond == c) ∧
      (∀ q, q ≠ p → t.port q = s.port q) ∧
      (p = .job → SameExcept [.links, .ev] s t) ∧
      (p = .line → SameExcept [.links, .line, .ev] s t ∧
        (s.line.state = .running → FaultsWith .lineLinkLost none s t) ∧
        (s.line.state ≠ .running → t.line = s.line)) ∧
      (p = .delivery → SameExcept [.links, .belt, .ev] s t ∧ t.belt = { s.belt with readiness := .notReady })

/-! ### The web and the read head -/

/-- R23: each encoder step adds or subtracts one count modulo 16,777,216, in every line state and during the sweep. -/
def Obligations.EncoderStepCounts : Prop :=
  ∀ (d : Direction) (s : State), ∃ t, exec (.encoderStep d) s = .next t ∧
    t.web = { s.web with position := match d with | .forward => s.web.position + 1 | .backward => s.web.position - 1 } ∧
    (s.line.sweep = true → t = { s with web := t.web })

/-- R91, R92, R96, R99 to R101: at the step at which P reaches the fire point of the head firing, with GUARD closed, the
knife gives one pulse, or the page gate goes to the firing's setting, and the firing leaves the queue. With GUARD open
nothing fires: a knife firing faults the line with MISSED_BURST, and a gate firing has its sheet rewritten to the side at
which the gate stands, which the plan then follows. -/
def Obligations.FiringsFireAtTheirFirePoints : Prop :=
  ∀ (f : Firing) (rest : List Firing) (s : State), s.line.sweep = false → s.firing.queue = f :: rest →
    f.firePoint = s.web.position + 1 → (∀ g ∈ rest, ahead (s.web.position + 1) g.firePoint = true) →
    dueWatches (movePosition .forward s) = [.firePoint f.actuator f.target] →
    (s.line.guard = .closed →
      (∀ row, f.actuator = .knife row →
        exec (.encoderStep .forward) s = .next
          { s with
            web := { s.web with position := s.web.position + 1 }
            firing := { s.firing with queue := rest, knifePulses := s.firing.knifePulses + 1 }
            ev := Event.none }) ∧
      (∀ id d, f.actuator = .gate id d →
        exec (.encoderStep .forward) s = .next
          { s with
            web := { s.web with position := s.web.position + 1 }
            firing := { s.firing with queue := rest, actual := d }
            ev := Event.none })) ∧
    (s.line.guard = .opened →
      (∀ row, f.actuator = .knife row → s.line.state ≠ .faulted →
        ∃ t, exec (.encoderStep .forward) s = .next t ∧ FaultsWith .missedBurst (rowSet s row) s t ∧
          t.firing = { s.firing with queue := rest } ∧ SameExcept [.links, .web, .firing, .line, .ev] s t) ∧
      (∀ id d e, f.actuator = .gate id d → (s.track.list.map SheetEntry.id).Nodup → s.findSheet id = some e →
        e.pastGate = false → e.disposition = d → e.set = none →
        (∀ x ∈ s.track.list, x.pastGate = false → x.id ≠ id → x.disposition = s.firing.actual) →
        ∃ t, exec (.encoderStep .forward) s = .next t ∧
          t.findSheet id = some { e with disposition := s.firing.actual } ∧ t.line.record = s.line.record ∧
          t.firing = { s.firing with
            queue := rest.filter (fun g => g.actuator.same (.knife 0))
            planned := s.firing.actual }))

/-- R39, R97 to R101: the one queued firing found late at a speed update, by λ counts. Within the late tolerance of its
actuator and with GUARD closed it fires at once and is counted. Above it, or with GUARD open, it is withheld and nothing
fires: a knife firing faults the line with MISSED_BURST; a gate firing has its sheet rewritten to the side at which the gate
stands, an ACCUMULATE sheet of a set giving the set MISSED_FIRING, and the plan then follows the gate. -/
def Obligations.LateFiringsFireOrAreWithheld : Prop :=
  ∀ (f : Firing) (lateness : Int) (s : State), s.line.sweep = false → s.firing.queue = [f] →
    lateness = signedDist (firePointOf { s with web := updateSpeed s.web } f.actuator f.target) s.web.position →
    0 < lateness → ∃ t, exec .speedUpdate s = .next t ∧
      (∀ row, f.actuator = .knife row →
        (s.line.guard = .closed → lateness ≤ s.line.geometry.knifeLateTol →
          t.firing = { s.firing with queue := [], knifePulses := s.firing.knifePulses + 1 } ∧
          t.line.tally = { s.line.tally with lateFirings := satInc s.line.tally.lateFirings }) ∧
        (s.line.guard = .opened ∨ (s.line.geometry.knifeLateTol : Int) < lateness →
          t.firing = { s.firing with queue := [] } ∧ t.line.tally = s.line.tally ∧
          (s.line.state ≠ .faulted → FaultsWith .missedBurst (rowSet s row) s t))) ∧
      (∀ id d, f.actuator = .gate id d →
        (s.line.guard = .closed → lateness ≤ s.line.geometry.gateLateTol →
          t.firing = { s.firing with queue := [], actual := d } ∧
          t.line.tally = { s.line.tally with lateFirings := satInc s.line.tally.lateFirings }) ∧
        (∀ e, s.line.guard = .opened ∨ (s.line.geometry.gateLateTol : Int) < lateness →
          (s.track.list.map SheetEntry.id).Nodup → s.findSheet id = some e → e.pastGate = false → e.disposition = d →
          d ≠ s.firing.actual →
          (∀ x ∈ s.track.list, x.pastGate = false → x.id ≠ id → x.disposition = s.firing.actual) →
          t.firing = { s.firing with queue := [], planned := s.firing.actual } ∧
          t.findSheet id = some { e with disposition := s.firing.actual } ∧ t.line.record = s.line.record ∧
          ∀ n r, d = .accumulate → e.set = some n → s.findSet n = some r → r.state.mayFail = true → r.cause = none →
            t.findSet n = some { r with state := .rejecting, cause := some .missedFiring, failingStep := none }))

/-- R93, R94, R95: with every gate fire point ahead of P, distinct gate targets and room in the queue, a re-derivation leaves
the knife firings and makes a gate firing for exactly those sheets before the gate whose disposition differs from that of
the sheet before, the first from the actual gate position; an extension keeps the queue and goes on so from the planned
gate position over the sheets made at the event. The planned gate position becomes the last disposition. Two sheets with
one gate target and differing dispositions are both given WASTE, and a set whose sheet was ACCUMULATE takes
MISSED_FIRING. -/
def Obligations.GatePlanFollowsTheDispositions : Prop :=
  ∀ s : State, (s.track.list.map SheetEntry.id).Nodup →
    (∀ e ∈ s.track.list, e.pastGate = false →
      ahead s.web.position (firePointOf s (.gate e.id e.disposition) (gateTarget s e)) = true) →
    (∀ es : List SheetEntry, es = s.track.list.filter (fun e => !e.pastGate) → (es.map (gateTarget s)).Nodup →
      (s.firing.queue.length + es.length ≤ 32 →
        (rederive s).track = s.track ∧ (rederive s).table = s.table ∧ (rederive s).line = s.line ∧
        (rederive s).firing.actual = s.firing.actual ∧
        (rederive s).firing.planned = (es.getLast?.map SheetEntry.disposition).getD s.firing.actual ∧
        ∀ f, f ∈ (rederive s).firing.queue ↔
          (f ∈ s.firing.queue ∧ ∃ row, f.actuator = .knife row) ∨
            ∃ before e later, es = before ++ e :: later ∧
              e.disposition ≠ (before.getLast?.map SheetEntry.disposition).getD s.firing.actual ∧
              f = { actuator := .gate e.id e.disposition, target := gateTarget s e,
                    firePoint := firePointOf s (.gate e.id e.disposition) (gateTarget s e) }) ∧
      (∀ new : List SheetEntry, new = es.filter (fun e => s.ev.made.contains e.id) →
        s.firing.queue.length + new.length ≤ 32 →
        (∀ f ∈ s.firing.queue, ∀ id d, f.actuator = .gate id d → f.target ∉ new.map (gateTarget s)) →
        (extendPlan s).track = s.track ∧ (extendPlan s).table = s.table ∧ (extendPlan s).line = s.line ∧
        (extendPlan s).firing.actual = s.firing.actual ∧
        (extendPlan s).firing.planned = (new.getLast?.map SheetEntry.disposition).getD s.firing.planned ∧
        ∀ f, f ∈ (extendPlan s).firing.queue ↔
          f ∈ s.firing.queue ∨
            ∃ before e later, new = before ++ e :: later ∧
              e.disposition ≠ (before.getLast?.map SheetEntry.disposition).getD s.firing.planned ∧
              f = { actuator := .gate e.id e.disposition, target := gateTarget s e,
                    firePoint := firePointOf s (.gate e.id e.disposition) (gateTarget s e) })) ∧
    (∀ p e : SheetEntry, s.track.list.filter (fun x => !x.pastGate) = [p, e] → gateTarget s p = gateTarget s e →
      p.disposition ≠ e.disposition → s.firing.queue.length + 2 ≤ 32 →
      (rederive s).findSheet p.id = some { p with disposition := .waste } ∧
      (rederive s).findSheet e.id = some { e with disposition := .waste } ∧
      (rederive s).firing.planned = .waste ∧
      (∀ f ∈ (rederive s).firing.queue, ∀ id d, f.actuator = .gate id d → d = .waste ∧ f.target = gateTarget s e) ∧
      (s.firing.actual = .accumulate → ∃ f ∈ (rederive s).firing.queue, ∃ id, f.actuator = .gate id .waste) ∧
      ∀ x n r, x = p ∨ x = e → x.disposition = .accumulate → x.set = some n → s.findSet n = some r →
        r.state.mayFail = true → r.cause = none →
        (rederive s).findSet n = some { r with state := .rejecting, cause := some .missedFiring, failingStep := none })

/-- R27, R28: a speed update takes the raw speed as the signed distance from the position kept, derives w from it, keeps P,
and sets the reverse flag or the speed-high latch; above 255 OVERSPEED is pending, in every line state. -/
def Obligations.SpeedUpdateSamplesTheSpeed : Prop :=
  ∀ s : State, ∃ t, exec .speedUpdate s = .next t ∧
    t.web.position = s.web.position ∧ t.web.kept = s.web.position ∧
    (signedDist s.web.kept s.web.position < 0 →
      t.web.speed = 0 ∧ t.web.reverse = true ∧ t.web.speedHigh = s.web.speedHigh) ∧
    (0 ≤ signedDist s.web.kept s.web.position → signedDist s.web.kept s.web.position ≤ 255 →
      (t.web.speed : Int) = signedDist s.web.kept s.web.position ∧ t.web.reverse = s.web.reverse ∧
        t.web.speedHigh = s.web.speedHigh) ∧
    (255 < signedDist s.web.kept s.web.position →
      t.web.speed = 255 ∧ t.web.reverse = s.web.reverse ∧ t.web.speedHigh = true ∧ t.isPending .overspeed = true)

/-- R26, R48, R49, R50, R51, R54: a bar event is ignored before a profile is loaded, on the RIGHT lane of a 1-UP web and
during the sweep; any other bar event in HUNT locks the reader on its position and opens the first row, which closes at once
in 1-UP. That a row which P has already passed as it opens closes at once, and that two such rows without a bar lose the
lock again, is the model's reading of R26 (assumption 12). -/
def Obligations.BarEventLocksTheReader : Prop :=
  ∀ (lane : Lane) (pos : Pos) (c : Cells) (truncated : Bool) (s : State),
    (s.line.sweep = true ∨ s.table.profileLoaded = false ∨ (s.table.profile.layout = .oneUp ∧ lane = .right) →
      exec (.barEvent lane pos c truncated) s = .next s) ∧
    (s.line.sweep = false → s.table.profileLoaded = true → (s.table.profile.layout = .oneUp → lane = .left) →
      s.reader.state = .hunt →
      ∃ t, exec (.barEvent lane pos c truncated) s = .next t ∧
        (s.table.profile.layout = .twoUp → passed s.web.position (plus pos s.table.profile.skew) = false →
          t.reader.state = .locked ∧ t.reader.rowRef = some pos ∧
          t.reader.openRow = some (firstRow.see lane
            { position := pos, decoded := decodeMark s.table.profile.strict truncated c })) ∧
        (s.table.profile.layout = .oneUp ∨ passed s.web.position (plus pos s.table.profile.skew) = true →
          (passed s.web.position (plus (plus pos s.table.profile.formLength) s.table.profile.tol) = false →
            t.reader.state = .locked ∧ t.reader.rowRef = some pos ∧ t.reader.openRow = some nextRow ∧
            t.reader.miss = 0) ∧
          (passed s.web.position (plus (plus pos s.table.profile.formLength) s.table.profile.tol) = true →
            passed s.web.position
              (plus (plus (plus pos s.table.profile.formLength) s.table.profile.formLength) s.table.profile.tol) = true →
            t.reader.state = .hunt ∧ t.reader.openRow = none ∧ t.isPending .lockLost = true)))

/-- R50 to R55, R58 to R60: in LOCKED a bar inside the open row's window, on a lane not yet seen, is recorded; a bar of a
seen lane or outside the window is ignored. A row closes when its last lane has reported, or at the step that passes its
far edge; its reference is its earliest bar, else its window's centre. The second row in succession with no bar loses the
lock: HUNT at P, LOCK_LOST, no reading set. A matched mark's decode error takes the Mark Capture record by severity, a rise
in severity raising CAPTURE. -/
def Obligations.LockedReaderReadsRowByRow : Prop :=
  ∀ (r : OpenRow) (ref centre : Pos) (half : Nat) (s : State), s.line.sweep = false → s.table.profileLoaded = true →
    s.reader.state = .locked → s.reader.openRow = some r → s.reader.rowRef = some ref →
    centre = (if r.first = true then ref else plus ref s.table.profile.formLength) →
    half = (if r.first = true then s.table.profile.skew else s.table.profile.tol) →
    (∀ (lane : Lane) (pos : Pos) (c : Cells) (truncated : Bool), (s.table.profile.layout = .oneUp → lane = .left) →
      ((r.bar lane).isSome ∨ within half pos centre = false →
        exec (.barEvent lane pos c truncated) s = .next { s with ev := Event.none }) ∧
      (∀ d r', r.bar lane = none → within half pos centre = true → passed s.web.position (plus centre half) = false →
        d = decodeMark s.table.profile.strict truncated c → r' = r.see lane { position := pos, decoded := d } →
        ∃ t, exec (.barEvent lane pos c truncated) s = .next t ∧
          (r'.full s.table.profile.layout = false → t.reader.state = .locked ∧ t.reader.openRow = some r' ∧
            t.reader.rowRef = some ref ∧ t.reader.miss = s.reader.miss ∧ t.track = s.track ∧ t.table = s.table ∧
            t.line = s.line) ∧
          (∀ new, r'.full s.table.profile.layout = true → r'.earliest = some new →
            passed s.web.position (plus (plus new s.table.profile.formLength) s.table.profile.tol) = false →
            t.reader.state = .locked ∧ t.reader.openRow = some nextRow ∧ t.reader.rowRef = some new ∧
            t.reader.miss = 0 ∧ t.line.tally.rowsRead = satInc s.line.tally.rowsRead) ∧
          (offeredSeverity d = none →
            t.reader.capture = s.reader.capture ∧ t.isPending .capture = s.isPending .capture) ∧
          ∀ severity withTag offer, offeredSeverity d = some (severity, withTag) →
            offer = captureOf lane (minus centre s.table.profile.markOffset) truncated c severity withTag →
            (s.reader.capture.severity.code < severity.code →
              t.reader.capture = offer ∧ t.isPending .capture = true) ∧
            (s.reader.capture.severity = .corrected → severity = .corrected →
              t.reader.capture = offer ∧ t.isPending .capture = s.isPending .capture) ∧
            (severity.code < s.reader.capture.severity.code ∨ s.reader.capture.severity = .uncorrectable →
              t.reader.capture = s.reader.capture ∧ t.isPending .capture = s.isPending .capture))) ∧
    (∀ (d : Direction) (p : Pos), p = stepPosition d s.web.position →
      dueWatches (movePosition d s) = [.rowEdge] →
      ∃ t, exec (.encoderStep d) s = .next t ∧
        (∀ new, r.earliest = some new →
          passed p (plus (plus new s.table.profile.formLength) s.table.profile.tol) = false →
          t.reader = { s.reader with openRow := some nextRow, rowRef := some new, miss := 0 } ∧
          t.line.tally.rowsRead = satInc s.line.tally.rowsRead) ∧
        (r.first = false → r.earliest = none → s.reader.miss = 0 →
          passed p (plus (plus centre s.table.profile.formLength) s.table.profile.tol) = false →
          t.reader = { s.reader with openRow := some nextRow, rowRef := some centre, miss := 1 } ∧
          t.line.tally.rowsRead = satInc s.line.tally.rowsRead) ∧
        (r.first = false → r.earliest = none → s.reader.miss = 1 →
          t.reader = huntingAt p s.reader ∧ t.isPending .lockLost = true ∧ t.track.ref = .none ∧
          t.track.orphanRun = false ∧ t.line.tally.rowsRead = satInc s.line.tally.rowsRead))

/-- R64 to R66, R75, R78, R81, R82, R92 to R94: the first row of a 1-UP web is entered as one entry of the next sheet id with the
positions of R37, and its knife firing is queued. A CLEAN filler is WASTE of no set. A CLEAN page that starts no set is an
orphan, WASTE, and UNEXPECTED_PAGES is pending when it begins a run. A CLEAN first page of a PENDING set is
ACCUMULATE and assigned to the set, which becomes ACTIVE; with the gate at WASTE a gate firing to ACCUMULATE is queued for
it. -/
def Obligations.FirstRowIsTracked : Prop :=
  ∀ (pos row : Pos) (c : Cells) (m : Mark) (entry : SheetEntry) (knife : Firing) (s : State), s.line.sweep = false →
    s.table.profileLoaded = true → s.table.profile.layout = .oneUp → s.reader.state = .hunt → s.track.list = [] →
    s.firing.queue = [] → s.firing.planned = .waste →
    decodeMark s.table.profile.strict false c = { result := .clean, mark := some m, cause := none } →
    s.track.nextId < 65535 → row = minus pos s.table.profile.markOffset →
    passed s.web.position (plus (plus row s.line.geometry.readerToGate) s.line.geometry.arrivalTol) = false →
    passed s.web.position (plus (plus row s.line.geometry.readerToAcc) s.line.geometry.arrivalTol) = false →
    passed s.web.position (plus (plus pos s.table.profile.formLength) s.table.profile.tol) = false →
    entry =
      { id := s.track.nextId, row := row, order := .first, result := .clean, mark := some m, set := none, page := none,
        disposition := .waste, gateArrival := plus row s.line.geometry.readerToGate,
        accArrival := plus row s.line.geometry.readerToAcc,
        pastGate := passed s.web.position (plus row s.line.geometry.readerToGate) } →
    knife =
      { actuator := .knife row, target := plus (plus row s.table.profile.formLength) s.line.geometry.readerToKnife,
        firePoint := firePointOf s (.knife row)
          (plus (plus row s.table.profile.formLength) s.line.geometry.readerToKnife) } →
    ahead s.web.position knife.firePoint = true →
    ∃ t, exec (.barEvent .left pos c false) s = .next t ∧
      t.line.tally.rowsRead = satInc s.line.tally.rowsRead ∧
      t.line.tally.sheetsTracked = satInc s.line.tally.sheetsTracked ∧
      (m.kind = .filler →
        t.track = { s.track with list := [entry], nextId := s.track.nextId + 1 } ∧ t.firing.queue = [knife] ∧
        t.table = s.table) ∧
      (m.kind = .page → m.page ≠ 1 → s.track.ref = .none → s.track.orphanRun = false →
        t.track = { s.track with list := [entry], nextId := s.track.nextId + 1, orphanRun := true } ∧
        { cond := .unexpectedPages, param := .orphan (some m.tag) .notFirst } ∈ (t.port .job).conds ∧
        t.firing.queue = [knife] ∧ t.table = s.table) ∧
      (∀ r gate, TableOk s.table → m.kind = .page → m.page = 1 → s.track.ref = .none → s.findTag m.tag = some r →
        r.state = .pending → r.cause = none → r.colour = m.colour → 1 < r.pages → entry.pastGate = false →
        gate =
          { actuator := .gate s.track.nextId .accumulate, target := minus entry.gateArrival s.line.geometry.gateAdvance,
            firePoint := firePointOf s (.gate s.track.nextId .accumulate)
              (minus entry.gateArrival s.line.geometry.gateAdvance) } →
        ahead s.web.position gate.firePoint = true →
        t.track = { s.track with
          list := [{ entry with set := some r.number, page := some 1, disposition := .accumulate }]
          nextId := s.track.nextId + 1
          ref := .reading r.number r.tag r.colour
          orphanRun := false } ∧
        t.findSet r.number = some { r with state := .active, pagesRead := 1 } ∧
        t.firing.planned = .accumulate ∧ ∀ f, f ∈ t.firing.queue ↔ f = knife ∨ f = gate)

/-- R74 to R84: what a new entry's mark does, by the reading set reference. Page 1 of a PENDING set starts the set; the next
page of the reading set continues it and its LAST completes the read; a page out of order, a LAST too early and a last page
without LAST fault it, as do a page of another set, a banner and an UNREAD sheet. A page that no set takes is an orphan with
its reason; a page of a faulted run follows its set to waste. -/
def Obligations.SheetsAreMatchedToSets : Prop :=
  ∀ (id : Nat) (e : SheetEntry) (d : Decoded) (s t : State), TableOk s.table → s.findSheet id = some e → e.set = none →
    e.page = none → e.disposition = .waste → t = matchEntry id d s →
    (∀ m, d.mark = some m → m.kind = .filler → t = s) ∧
    (∀ m, d.mark = some m → m.kind = .banner →
      t.track.ref = .none ∧ t.track.orphanRun = false ∧ t.findSheet id = some e ∧
      ∀ n tag colour r, s.track.ref = .reading n tag colour → s.findSet n = some r → r.state = .active →
        r.cause = none → ∃ r', t.findSet n = some r' ∧ r'.cause = some .shortSet) ∧
    (d.mark = none →
      (∀ n tag colour r, s.track.ref = .reading n tag colour → s.findSet n = some r → r.state = .active →
        r.cause = none →
        t.findSet n = some { r with state := .rejecting, cause := some .unreadPage, failingStep := none } ∧
        t.findSheet id = some { e with set := some n } ∧ t.track.ref = .faultedRun n tag colour) ∧
      (∀ n tag colour, s.track.ref = .faultedRun n tag colour → s.setState n = some .rejecting →
        t.findSheet id = some { e with set := some n } ∧ t.track.ref = s.track.ref) ∧
      (s.track.ref = .none → t = makeOrphan none .unread s)) ∧
    (∀ m, d.mark = some m → m.kind = .page ∨ m.kind = .last →
      (s.track.ref = .none →
        (m.page ≠ 1 → t = makeOrphan (some m.tag) .notFirst s) ∧
        (m.page = 1 → s.findTag m.tag = none → t = makeOrphan (some m.tag) .unknown (s.setOrphanRun false)) ∧
        ∀ r, m.page = 1 → s.findTag m.tag = some r →
          (r.colour ≠ m.colour → t = makeOrphan (some m.tag) .wrongJob (s.setOrphanRun false)) ∧
          (r.colour = m.colour → r.state = .cancelled →
            t = makeOrphan (some m.tag) .cancelled (s.setOrphanRun false)) ∧
          (r.colour = m.colour → r.state ≠ .cancelled → r.state ≠ .pending →
            t = makeOrphan (some m.tag) .alreadyRun (s.setOrphanRun false)) ∧
          (r.colour = m.colour → r.state = .pending → (m.kind = .page ∧ 1 < r.pages) ∨ (m.kind = .last ∧ r.pages = 1) →
            t.findSheet id = some { e with set := some r.number, page := some 1, disposition := .accumulate } ∧
            t.track.orphanRun = false ∧
            (m.kind = .page → t.track.ref = .reading r.number r.tag r.colour ∧
              t.findSet r.number = some { r with state := .active, pagesRead := 1 }) ∧
            (m.kind = .last → t.track.ref = .none ∧
              t.findSet r.number = some { r with state := .active, pagesRead := 1, readComplete := true }))) ∧
      (∀ n tag colour r, s.track.ref = .reading n tag colour → s.findSet n = some r → r.state = .active →
        r.cause = none →
        (∀ cause, m.tag = tag → m.colour = colour →
          (m.page ≠ r.pagesRead + 1 ∧ cause = SetCause.outOfSequence) ∨
            (m.page = r.pagesRead + 1 ∧ m.kind = .last ∧ m.page < r.pages ∧ cause = .shortSet) ∨
            (m.page = r.pagesRead + 1 ∧ m.kind = .page ∧ m.page = r.pages ∧ cause = .missingLast) →
          t.findSet n = some { r with state := .rejecting, cause := some cause, failingStep := none } ∧
          t.findSheet id = some { e with set := some n } ∧
          t.track.ref = if cause = .shortSet then .none else .faultedRun n tag colour) ∧
        (m.tag = tag → m.colour = colour → m.page = r.pagesRead + 1 →
          (m.kind = .page ∧ m.page < r.pages) ∨ (m.kind = .last ∧ m.page = r.pages) →
          t.findSheet id = some { e with set := some n, page := some m.page, disposition := .accumulate } ∧
          (m.kind = .page → t.track.ref = s.track.ref ∧
            t.findSet n = some { r with pagesRead := r.pagesRead + 1 }) ∧
          (m.kind = .last → t.track.ref = .none ∧
            t.findSet n = some { r with pagesRead := r.pagesRead + 1, readComplete := true })) ∧
        (m.tag ≠ tag ∨ m.colour ≠ colour →
          (∃ r', t.findSet n = some r' ∧ r'.cause = some .shortSet) ∧ (m.page ≠ 1 → t.track.ref = .none) ∧
          ∀ q, m.page = 1 → s.findTag m.tag = some q → q.colour = m.colour → q.state = .pending → m.kind = .page →
            1 < q.pages →
            t.track.ref = .reading q.number q.tag q.colour ∧
            t.findSet q.number = some { q with state := .active, pagesRead := 1 })) ∧
      (∀ n tag colour, s.track.ref = .faultedRun n tag colour → m.tag = tag → m.colour = colour →
        s.setState n = some .rejecting →
        t.findSheet id = some { e with set := some n } ∧ t.table = s.table ∧
        (m.kind = .page → t.track.ref = s.track.ref) ∧ (m.kind = .last → t.track.ref = .none))) ∧
    ∀ tag reason,
      (s.track.orphanRun = true → makeOrphan tag reason s = s) ∧
      (s.track.orphanRun = false →
        (makeOrphan tag reason s).track = { s.track with orphanRun := true } ∧
        { cond := .unexpectedPages, param := .orphan tag reason } ∈ ((makeOrphan tag reason s).port .job).conds ∧
        SameExcept [.links, .track, .ev] s (makeOrphan tag reason s))

/-! ### The accumulator -/

/-- R105, R106, R159: an arrival matched in an EMPTY accumulator is collected: the entry retires, its set becomes the held
set and its page is counted. An arrival that no entry matches faults the line with STRAY_SHEET and the held set. -/
def Obligations.ArrivalIsCollectedOrStray : Prop :=
  ∀ s : State, s.line.sweep = false →
    (∀ (e : SheetEntry) (n : Nat) (r : SetRec), s.oldestAccumulate = some e →
      within s.line.geometry.arrivalTol s.web.position e.accArrival = true → s.acc.state = .empty → e.set = some n →
      e.page.isSome → s.findSet n = some r → r.state = .active → r.cause = none → r.pagesArrived + 1 < r.pages →
      ∃ t r', exec .arrival s = .next t ∧ t.acc.state = .collecting ∧ t.acc.held = some n ∧
        t.acc.sheets = s.acc.sheets + 1 ∧ t.acc.others = s.acc.others ∧ t.acc.unassigned = s.acc.unassigned ∧
        t.track.list = s.track.list.filter (fun x => x.id ≠ e.id) ∧ t.findSet n = some r' ∧
        r'.pagesArrived = r.pagesArrived + 1 ∧ r'.state = .active ∧ r'.cause = none ∧
        SameExcept [.links, .table, .track, .acc, .line, .ev] s t) ∧
    (s.line.state ≠ .faulted →
      (∀ e, s.oldestAccumulate = some e → within s.line.geometry.arrivalTol s.web.position e.accArrival = false) →
      ∃ t, exec .arrival s = .next t ∧ FaultsWith .straySheet s.acc.held s t ∧ t.web = s.web ∧ t.reader = s.reader)

/-- R113, R124, R132, R149: the expiries that give a set a cause. The hold timer's gives the HELD set HOLD_EXPIRED with the
HOLD step's index, and the set stays in the accumulator. The fold timer's ends the fold FAIL: the folder is FAULTED with the
set still in it, the set takes FOLD_JAM and the line JAM_FOLDER. The offer timer's ends the offer: the set takes
OFFER_EXPIRED, WITHDRAWN is pending and OFFER is not, and a belt gate stroke is wanted or starts. -/
def Obligations.ExpiriesRejectTheSet : Prop :=
  ∀ (n : Nat) (r : SetRec) (s : State), s.findSet n = some r → r.cause = none → NoneToTurn n s →
    (s.acc.holdTimer.isSome → s.acc.held = some n → r.state = .held →
      ∃ t, exec .holdTimerExpiry s = .next t ∧
        t.findSet n = some
          { r with state := .rejecting, cause := some .holdExpired, failingStep := stepIndex .hold r.program } ∧
        t.acc.held = some n ∧ t.acc.holdTimer = none ∧ t.web = s.web ∧ t.reader = s.reader ∧ t.belt = s.belt) ∧
    (s.folder.timer.isSome → s.folder.state = .folding → s.folder.set = some n → r.state = .folding →
      s.line.state ≠ .faulted →
      ∃ t, exec .foldTimerExpiry s = .next t ∧
        t.folder = { s.folder with
          state := .faulted, timer := none, last := some { number := n, pass := false },
          previous := s.folder.last } ∧
        t.findSet n = some
          { r with state := .rejecting, cause := some .foldJam, failingStep := foldFailIndex r.program } ∧
        FaultsWith .jamFolder (some n) s t) ∧
    (s.belt.offerTimer.isSome → s.belt.offered = some n → s.belt.queue.head? = some n → r.state = .offered →
      ∃ t, exec .offerTimerExpiry s = .next t ∧
        t.findSet n = some
          { r with state := .rejecting, cause := some .offerExpired, failingStep := stepIndex .route r.program } ∧
        t.belt.offered = none ∧ t.belt.offerTimer = none ∧ t.belt.queue = s.belt.queue ∧
        t.isPending .withdrawn = true ∧ t.isPending .offer = false ∧
        (s.line.guard = .closed → s.belt.stroke = false → t.belt.stroke = true) ∧
        (s.line.guard = .opened → t.belt.strokeWanted = true))

/-- R115, R127: hand-over starts when all its conditions hold together: the set becomes FOLDING, the accumulator RELEASING
with its actuator timeout, and the folder names the set as handed over. -/
def Obligations.HandOverStarts : Prop :=
  ∀ (n : Nat) (r : SetRec) (s : State), s.acc.state = .complete → s.acc.held = some n → s.findSet n = some r →
    r.state = .collected → r.nextStep = none → s.folder.state = .idle → s.belt.queue.length < 3 →
    s.acc.stroke = none → s.line.guard = .closed → s.line.state ≠ .faulted → s.acc.obligation ≠ .forced →
    (r.skewed = false ∨ foldKindOf r.program = .none) →
    ∃ t, exec .handOver s = .next t ∧
      t.acc = { s.acc with
        state := .releasing
        jogInterval := none
        releaseTimeout := some (s.line.geometry.actuatorTimeout * 1000) } ∧
      t.findSet n = some { r with state := .folding } ∧
      t.folder = { s.folder with
        handed := some { number := r.number, freed := false, kind := foldKindOf r.program } } ∧
      SameExcept [.links, .table, .acc, .folder, .line, .ev] s t

/-- R116, R118, R119, R140, R143: the actuator and travel timeouts fault the line with their jam, and the operation stays
in flight. -/
def Obligations.TimeoutsFaultTheLine : Prop :=
  ∀ s : State, s.line.state ≠ .faulted →
    (∀ n, s.acc.releaseTimeout.isSome → s.acc.state = .releasing → s.acc.held = some n → NoneToTurn n s →
      ∃ t, exec .releaseTimeout s = .next t ∧ FaultsWith .jamAccumulator (some n) s t ∧
        t.acc.releaseTimeout = none ∧ t.acc.state = .releasing ∧
        ∀ r, s.findSet n = some r → r.state = .folding → r.cause = none →
          ∃ r', t.findSet n = some r' ∧ r'.cause = some .missingSheet) ∧
    (s.acc.dumpTimeout.isSome → ∃ t, exec .dumpTimeout s = .next t ∧ FaultsWith .jamAccumulator s.acc.held s t ∧
      t.acc = { s.acc with dumpTimeout := none } ∧ SameExcept [.links, .acc, .line, .ev] s t) ∧
    (s.acc.jogTimeout.isSome → ∃ t, exec .jogTimeout s = .next t ∧ FaultsWith .jamJogger s.acc.held s t ∧
      t.acc = { s.acc with jogTimeout := none } ∧ SameExcept [.links, .acc, .line, .ev] s t) ∧
    (s.belt.travel.isSome → ∃ t, exec .beltTravelExpiry s = .next t ∧
      FaultsWith .jamBelt s.belt.queue.head? s t ∧ t.belt = { s.belt with travel := none } ∧
      SameExcept [.links, .belt, .line, .ev] s t) ∧
    (s.belt.gateTimeout.isSome → ∃ t, exec .beltGateTimeout s = .next t ∧
      FaultsWith .jamBelt s.belt.queue.head? s t ∧ t.belt = { s.belt with gateTimeout := none } ∧
      SameExcept [.links, .belt, .line, .ev] s t)

/-- R7, R117, R118: a dump starts when it is due: the accumulator becomes DUMPING with its actuator timeout. Its end empties
the accumulator, and a REJECTING set that nothing holds any more becomes DIVERTED. -/
def Obligations.DumpStartsAndEnds : Prop :=
  ∀ s : State,
    ((s.acc.state = .collecting ∨ s.acc.state = .complete) →
      (∀ n, s.acc.held = some n → s.setState n = some .rejecting) →
      (∀ e ∈ s.track.list, e.disposition = .accumulate → e.pastGate = true → inBin s e = false) →
      s.acc.stroke = none → s.line.guard = .closed →
      ∃ t, exec .dumpStart s = .next t ∧
        t.acc = { s.acc with
          state := .dumping
          jogInterval := none
          dumpTimeout := some (s.line.geometry.actuatorTimeout * 1000) } ∧
        SameExcept [.links, .acc, .line, .ev] s t) ∧
    (s.line.sweep = false → s.acc.state = .dumping →
      ∃ t, exec .dumpDone s = .next t ∧
        t.acc = { s.acc with
          state := .empty, held := none, others := [], unassigned := 0, sheets := 0, obligation := .clear,
          jogInterval := none, releaseTimeout := none, dumpTimeout := none } ∧
        ∀ n, s.acc.held = some n → s.setState n = some .rejecting →
          (∀ e ∈ s.track.list, e.set ≠ some n) → s.folder.set ≠ some n → n ∉ s.belt.queue →
          t.setState n = some .diverted ∧ n ∈ t.table.completion)

/-- R112, R115, R119, R121: a wanted stroke starts when it may: a squaring stroke for the JOG step or for hand-over, and
the obligation's where no dump, no hand-over and no squaring stroke goes before it. R121 has the obligation's stroke start
at an arrival or a speed update; that the row JOG_STROKE_START examines it as a command of its own, after the squaring
stroke, is the model's reading (assumption 8). -/
def Obligations.JogStrokeStarts : Prop :=
  ∀ s : State, (s.acc.state = .collecting ∨ s.acc.state = .complete) → s.acc.stroke = none → s.line.guard = .closed →
    (∀ n r, s.acc.state = .complete → s.acc.held = some n → s.findSet n = some r → r.state = .collected →
      (r.nextStep = some .jog ∨
        (r.nextStep = none ∧ r.skewed = true ∧ foldKindOf r.program ≠ .none)) →
      exec .jogStrokeStart s = .next
        { s with
          acc := { s.acc with
            stroke := some { full := true, squaring := true, jogStep := decide (r.nextStep = some .jog) }
            jogInterval := none
            jogTimeout := some (s.line.geometry.actuatorTimeout * 1000) }
          ev := Event.none }) ∧
    (∀ full, obligationStroke s = some full → dumpDue s = false → canHandOver s = false → squaringWanted s = none →
      exec .jogStrokeStart s = .next
        { s with
          acc := { s.acc with
            stroke := some { full := full, squaring := full && s.acc.state == .complete, jogStep := false }
            jogInterval := none
            jogTimeout := some (s.line.geometry.actuatorTimeout * 1000) }
          ev := Event.none })

/-- R109, R112, R119, R120, R121, R122: the jog done ends the stroke and its timeout, unless a squaring stroke that waited
for it starts at the same event; the obligation is CLEAR and JOG_FORCED is removed. While a good set is COLLECTING the jog
interval starts anew and nothing else of the accumulator changes. A squaring stroke clears SKEWED, and the JOG step's own
stroke passes JOG for a COLLECTED set. -/
def Obligations.JogDoneEndsTheStroke : Prop :=
  ∀ (k : Stroke) (s : State), s.line.sweep = false → s.acc.stroke = some k →
    ∃ t, exec .jogDone s = .next t ∧ t.acc.obligation = .clear ∧ t.line.holds.jogForced = false ∧
      t.web = s.web ∧ t.reader = s.reader ∧ t.belt = s.belt ∧
      ((t.acc.stroke = none ∧ t.acc.jogTimeout = none) ∨
        (s.acc.state = .complete ∧ t.acc.jogTimeout = some (s.line.geometry.actuatorTimeout * 1000) ∧
          ∃ j, t.acc.stroke = some { full := true, squaring := true, jogStep := j })) ∧
      (∀ n, s.acc.state = .collecting → k.jogStep = false → s.acc.held = some n → s.setState n ≠ some .rejecting →
        t.acc = { s.acc with
          stroke := none
          jogTimeout := none
          obligation := .clear
          jogInterval := some (s.line.geometry.jogInterval * 1000) }) ∧
      ∀ n r, s.acc.held = some n → s.findSet n = some r →
        (k.squaring = true → ∃ r', t.findSet n = some r' ∧ r'.skewed = false) ∧
        (k.jogStep = true → r.state = .collected → ∃ r', t.findSet n = some r' ∧ StepKind.jog ∈ r'.stepsPassed)

/-- R120, R121, R122: the jog interval timer's expiry restarts it and escalates the obligation by one step; JOG_FORCED
follows. -/
def Obligations.JogIntervalEscalates : Prop :=
  ∀ s : State, s.acc.jogInterval.isSome →
    ∃ t, exec .jogIntervalExpiry s = .next t ∧
      t.acc = { s.acc with
        jogInterval :=
          if s.acc.state = .collecting ∨ s.acc.state = .complete then some (s.line.geometry.jogInterval * 1000)
          else none
        obligation := match s.acc.obligation with
          | .clear => .due
          | .due => .urgent
          | .urgent => .forced
          | .forced => .forced } ∧
      t.line.holds.jogForced = decide (t.acc.obligation = .forced) ∧ SameExcept [.links, .acc, .line, .ev] s t

/-! ### The folder and the belt -/

/-- R116, R128, R129: a folder entry with the folder IDLE and a release in flight takes the released set into the folder;
any other entry faults the line with JAM_FOLDER. -/
def Obligations.FolderEntryTakesTheReleasedSet : Prop :=
  ∀ s : State, s.line.sweep = false →
    (∀ n, s.folder.state = .idle → s.acc.state = .releasing → s.acc.held = some n →
      ∃ t, exec .folderEntry s = .next t ∧
        t.folder = { s.folder with
          state := .folding, set := some n, timer := some (s.line.geometry.foldTimeout * 1000) } ∧
        t.acc.releaseTimeout = none ∧ t.acc.state ≠ .releasing ∧
        (s.acc.others = [] → s.acc.unassigned = 0 →
          t.acc.state = .empty ∧ t.acc.held = none ∧ t.acc.sheets = 0 ∧ t.acc.obligation = .clear) ∧
        SameExcept [.links, .acc, .folder, .line, .ev] s t) ∧
    (s.line.state ≠ .faulted → (s.folder.state ≠ .idle ∨ s.acc.state ≠ .releasing) →
      ∃ t, exec .folderEntry s = .next t ∧ FaultsWith .jamFolder s.folder.set s t ∧
        SameExcept [.links, .line, .ev] s t)

/-- R131, R133, R134: a fold exit in FOLDING ends the fold PASS: the set joins the tail of the Belt Queue and the folder is
IDLE; in FAULTED with a set it is the late exit of the jammed set. A fold exit with the folder IDLE, or FAULTED with no set,
is spurious: the line takes JAM_FOLDER with no set number, or a further fault, and nothing else changes. -/
def Obligations.FoldExitPutsTheSetOnTheBelt : Prop :=
  ∀ s : State, s.line.sweep = false →
    (∀ n, s.folder.set = some n →
      (s.folder.state = .folding →
        ∃ t, exec .foldExit s = .next t ∧ t.folder.state = .idle ∧ t.folder.set = none ∧ t.folder.timer = none ∧
          t.folder.last = some { number := n, pass := true } ∧ t.folder.previous = s.folder.last ∧
          t.belt.queue = s.belt.queue ++ [n] ∧
          t.line.tally = { s.line.tally with folds := satInc s.line.tally.folds } ∧
          (∀ r, s.findSet n = some r → r.state = .folding → t.findSet n = some { r with state := .onBelt }) ∧
          (∀ r, s.findSet n = some r → r.state = .rejecting → t.findSet n = some r)) ∧
      (s.folder.state = .faulted →
        ∃ t, exec .foldExit s = .next t ∧ t.folder = { s.folder with set := none } ∧
          t.belt.queue = s.belt.queue ++ [n] ∧ t.line = s.line)) ∧
    (s.folder.state = .idle ∨ s.folder.set = none →
      (s.line.state ≠ .faulted →
        ∃ t, exec .foldExit s = .next t ∧ FaultsWith .jamFolder none s t ∧ SameExcept [.links, .line, .ev] s t) ∧
      (s.line.state = .faulted →
        exec .foldExit s = .next
          { s with line := { s.line with record := { s.line.record with further := true } }, ev := Event.none }))

/-- R141, R142, R146: a head that comes to the belt end is offered when the inserter is READY, routed to the belt gate by a
DIVERT; a belt-end event with an empty queue faults the line. -/
def Obligations.BeltEndRoutesTheHead : Prop :=
  ∀ s : State, s.line.sweep = false →
    (∀ n rest r, s.belt.queue = n :: rest → s.belt.atEnd = false → s.findSet n = some r → r.state = .onBelt →
      routesDivert r.program = false → s.belt.readiness = .ready → s.belt.offered = none →
      ∃ t, exec .beltEnd s = .next t ∧
        t.belt = { s.belt with
          atEnd := true, travel := none, travelPaused := false, offered := some n,
          offerTimer := some (s.line.geometry.offerTimeout * 1000) } ∧
        t.findSet n = some { r with state := .offered } ∧ t.isPending .offer = true ∧
        SameExcept [.links, .table, .belt, .ev] s t) ∧
    (∀ n rest r, s.belt.queue = n :: rest → s.belt.atEnd = false → s.findSet n = some r → r.state = .onBelt →
      routesDivert r.program = true → r.cause = none → NoneToTurn n s → s.line.guard = .closed → s.belt.stroke = false →
      ∃ t, exec .beltEnd s = .next t ∧
        t.findSet n = some
          { r with state := .rejecting, cause := some .routed, failingStep := stepIndex .route r.program } ∧
        t.belt.atEnd = true ∧ t.belt.stroke = true ∧ t.belt.queue = s.belt.queue) ∧
    (s.belt.queue = [] → s.line.state ≠ .faulted →
      ∃ t, exec .beltEnd s = .next t ∧ FaultsWith .jamBelt none s t ∧ SameExcept [.links, .line, .ev] s t)

/-- R143, R144, R7: a wanted belt gate stroke starts with GUARD closed; at its gate done the head leaves the belt, and a
REJECTING set that nothing holds any more becomes DIVERTED. -/
def Obligations.BeltGateDiverts : Prop :=
  ∀ s : State,
    (s.belt.strokeWanted = true → s.belt.stroke = false → s.line.guard = .closed →
      exec .beltGateStroke s = .next
        { s with
          belt := { s.belt with
            strokeWanted := false, stroke := true,
            gateTimeout := some (s.line.geometry.actuatorTimeout * 1000) }
          ev := Event.none }) ∧
    (∀ n rest r, s.line.sweep = false → s.belt.stroke = true → s.belt.queue = n :: rest → n ∉ rest →
      s.findSet n = some r → r.state = .rejecting → (∀ e ∈ s.track.list, e.set ≠ some n) → s.acc.held ≠ some n →
      n ∉ s.acc.others → s.folder.set ≠ some n →
      ∃ t, exec .beltGateDone s = .next t ∧ t.belt.queue = rest ∧ t.belt.stroke = false ∧ t.belt.gateTimeout = none ∧
        t.findSet n = some { r with state := .diverted } ∧ t.table.completion = s.table.completion ++ [n] ∧
        t.line.tally = { s.line.tally with setsDiverted := satInc s.line.tally.setsDiverted })

/-! ### The line -/

/-- R158: GUARD opening faults a RUNNING line with GUARD_OPEN and is otherwise read and nothing more. GUARD closing is read,
and each operation that waited for it and may start does so: a wanted belt gate stroke, a due dump, a hand-over whose other
conditions hold, a wanted squaring stroke. That the obligation's stroke starts at GUARD closing too is the model's reading
(assumption 15). -/
def Obligations.GuardIsRead : Prop :=
  ∀ s : State, s.line.sweep = false →
    (s.line.guard = .closed → s.line.state = .running →
      ∃ t, exec .guardOpen s = .next t ∧ FaultsWith .guardOpen none s t ∧ t.line.guard = .opened ∧
        t.line.stopPoint = s.web.position ∧ SameExcept [.links, .line, .ev] s t) ∧
    (s.line.guard = .closed → s.line.state ≠ .running →
      exec .guardOpen s = .next { s with line := { s.line with guard := .opened }, ev := Event.none }) ∧
    (∀ u : State, s.line.guard = .opened → u = s.setGuard .closed →
      ∃ t, exec .guardClose s = .next t ∧ t.line.guard = .closed ∧ t.line.state = s.line.state ∧
        t.web = s.web ∧ t.reader = s.reader ∧ t.track = s.track ∧ t.firing = s.firing ∧
        (s.belt.strokeWanted = true → s.belt.stroke = false →
          t.belt.stroke = true ∧ t.belt.gateTimeout = some (s.line.geometry.actuatorTimeout * 1000)) ∧
        (dumpDue u = true →
          t.acc = { s.acc with
            state := .dumping
            jogInterval := none
            dumpTimeout := some (s.line.geometry.actuatorTimeout * 1000) }) ∧
        (∀ n r, s.acc.held = some n → s.findSet n = some r → canHandOver u = true →
          t.acc = { s.acc with
            state := .releasing
            jogInterval := none
            releaseTimeout := some (s.line.geometry.actuatorTimeout * 1000) } ∧
          t.findSet n = some { r with state := .folding }) ∧
        (∀ jogStep, squaringWanted u = some jogStep → s.acc.stroke = none →
          t.acc = { s.acc with
            stroke := some { full := true, squaring := true, jogStep := jogStep }
            jogInterval := none
            jogTimeout := some (s.line.geometry.actuatorTimeout * 1000) }) ∧
        (∀ full, obligationStroke s = some full → canStroke u = true → dumpDue u = false → canHandOver u = false →
          squaringWanted u = none →
          t.acc = { s.acc with
            stroke := some { full := full, squaring := full && s.acc.state == .complete, jogStep := false }
            jogInterval := none
            jogTimeout := some (s.line.geometry.actuatorTimeout * 1000) }))

/-- R24, R28, R164, R165, R166: a warm start keeps P and the table, abandons the machine's contents and faults the line
with POWER_LOST; a cold start leaves every block at its cold-start value with the sweep running. The model's choices in it:
GUARD as the command carries it (assumption 4), every block cleared at the power-up itself (assumption 9), a warm start that
ends a sweep still running (assumption 10), and the stop point and the sending fields 0 while the sweep runs
(assumption 29). -/
def Obligations.PowerUpStarts : Prop :=
  ∀ (closed : Bool) (s : State),
    (∃ t, exec (.powerUp true closed) s = .next t ∧ t.line.state = .faulted ∧
      t.line.record = { cause := some .powerLost, set := none, further := false } ∧ t.line.sweep = false ∧
      t.line.guard = guardOf closed ∧ t.line.stopPoint = s.web.position ∧ t.web.position = s.web.position ∧
      t.web.kept = s.web.position ∧ t.web.speed = 0 ∧ t.web.reverse = false ∧ t.web.speedHigh = false ∧
      t.track.list = [] ∧ t.track.nextId = s.track.nextId ∧ t.firing.queue = [] ∧ t.firing.actual = .waste ∧
      t.acc = Accumulator.empty ∧ t.folder.state = .idle ∧ t.folder.set = none ∧
      t.belt = Delivery.empty .notReady ∧ t.isPending .lineFault = true ∧
      (∀ p, (t.port p).link = .down ∧ (t.port p).queue = []) ∧
      t.table = { s.table with records := s.table.records.map fun r =>
        if r.state.mayFail then { r with state := .rejecting, cause := some (r.cause.getD .interrupted) } else r }) ∧
    exec (.powerUp false closed) s =
      .next { State.reset with
        line := { State.reset.line with guard := guardOf closed }
        choices := s.choices
        pending := s.pending }

/-- R165: the sweep's completion ends the sweep, sets the stop point to P, reads GUARD, and leaves LINE_FAULT the one
pending condition. That this goes for an OVERSPEED or a LINK_FAULT raised while the sweep ran too is the model's reading
(assumption 9). -/
def Obligations.SweepCompletionOpensTheLine : Prop :=
  ∀ (closed : Bool) (s : State), s.line.sweep = true →
    ∃ t, exec (.sweepComplete closed) s = .next t ∧
      t.line = { s.line with sweep := false, stopPoint := s.web.position, guard := guardOf closed } ∧
      (t.port .line).conds = [{ cond := .lineFault, param := .lineCause .coldStart }] ∧
      (t.port .job).conds = [] ∧ (t.port .delivery).conds = [] ∧ (∀ p, (t.port p).queue = (s.port p).queue) ∧
      SameExcept [.links, .line, .ev] s t
end

