-- ==== Sys2Proof/Laws/State.lean ====
section
/-! SUPPORT. What each named update of the state changes and keeps: one lemma for each field. -/

namespace Sys2Proof.Machine

@[simp] theorem State.setLinks_links (s : State) (x : Links) : (s.setLinks x).links = x := rfl
@[simp] theorem State.setLinks_web (s : State) (x : Links) : (s.setLinks x).web = s.web := rfl
@[simp] theorem State.setLinks_reader (s : State) (x : Links) : (s.setLinks x).reader = s.reader := rfl
@[simp] theorem State.setLinks_table (s : State) (x : Links) : (s.setLinks x).table = s.table := rfl
@[simp] theorem State.setLinks_track (s : State) (x : Links) : (s.setLinks x).track = s.track := rfl
@[simp] theorem State.setLinks_firing (s : State) (x : Links) : (s.setLinks x).firing = s.firing := rfl
@[simp] theorem State.setLinks_acc (s : State) (x : Links) : (s.setLinks x).acc = s.acc := rfl
@[simp] theorem State.setLinks_folder (s : State) (x : Links) : (s.setLinks x).folder = s.folder := rfl
@[simp] theorem State.setLinks_belt (s : State) (x : Links) : (s.setLinks x).belt = s.belt := rfl
@[simp] theorem State.setLinks_line (s : State) (x : Links) : (s.setLinks x).line = s.line := rfl
@[simp] theorem State.setLinks_ev (s : State) (x : Links) : (s.setLinks x).ev = s.ev := rfl
@[simp] theorem State.setLinks_choices (s : State) (x : Links) : (s.setLinks x).choices = s.choices := rfl
@[simp] theorem State.setLinks_pending (s : State) (x : Links) : (s.setLinks x).pending = s.pending := rfl
@[simp] theorem State.setLinks_self (s : State) : s.setLinks s.links = s := rfl
@[simp] theorem State.setLinks_setLinks (s : State) (x y : Links) : (s.setLinks x).setLinks y = s.setLinks y := rfl

@[simp] theorem State.setWeb_links (s : State) (x : WebUnit) : (s.setWeb x).links = s.links := rfl
@[simp] theorem State.setWeb_web (s : State) (x : WebUnit) : (s.setWeb x).web = x := rfl
@[simp] theorem State.setWeb_reader (s : State) (x : WebUnit) : (s.setWeb x).reader = s.reader := rfl
@[simp] theorem State.setWeb_table (s : State) (x : WebUnit) : (s.setWeb x).table = s.table := rfl
@[simp] theorem State.setWeb_track (s : State) (x : WebUnit) : (s.setWeb x).track = s.track := rfl
@[simp] theorem State.setWeb_firing (s : State) (x : WebUnit) : (s.setWeb x).firing = s.firing := rfl
@[simp] theorem State.setWeb_acc (s : State) (x : WebUnit) : (s.setWeb x).acc = s.acc := rfl
@[simp] theorem State.setWeb_folder (s : State) (x : WebUnit) : (s.setWeb x).folder = s.folder := rfl
@[simp] theorem State.setWeb_belt (s : State) (x : WebUnit) : (s.setWeb x).belt = s.belt := rfl
@[simp] theorem State.setWeb_line (s : State) (x : WebUnit) : (s.setWeb x).line = s.line := rfl
@[simp] theorem State.setWeb_ev (s : State) (x : WebUnit) : (s.setWeb x).ev = s.ev := rfl
@[simp] theorem State.setWeb_choices (s : State) (x : WebUnit) : (s.setWeb x).choices = s.choices := rfl
@[simp] theorem State.setWeb_pending (s : State) (x : WebUnit) : (s.setWeb x).pending = s.pending := rfl
@[simp] theorem State.setWeb_self (s : State) : s.setWeb s.web = s := rfl
@[simp] theorem State.setWeb_setWeb (s : State) (x y : WebUnit) : (s.setWeb x).setWeb y = s.setWeb y := rfl

@[simp] theorem State.setReader_links (s : State) (x : MarkReader) : (s.setReader x).links = s.links := rfl
@[simp] theorem State.setReader_web (s : State) (x : MarkReader) : (s.setReader x).web = s.web := rfl
@[simp] theorem State.setReader_reader (s : State) (x : MarkReader) : (s.setReader x).reader = x := rfl
@[simp] theorem State.setReader_table (s : State) (x : MarkReader) : (s.setReader x).table = s.table := rfl
@[simp] theorem State.setReader_track (s : State) (x : MarkReader) : (s.setReader x).track = s.track := rfl
@[simp] theorem State.setReader_firing (s : State) (x : MarkReader) : (s.setReader x).firing = s.firing := rfl
@[simp] theorem State.setReader_acc (s : State) (x : MarkReader) : (s.setReader x).acc = s.acc := rfl
@[simp] theorem State.setReader_folder (s : State) (x : MarkReader) : (s.setReader x).folder = s.folder := rfl
@[simp] theorem State.setReader_belt (s : State) (x : MarkReader) : (s.setReader x).belt = s.belt := rfl
@[simp] theorem State.setReader_line (s : State) (x : MarkReader) : (s.setReader x).line = s.line := rfl
@[simp] theorem State.setReader_ev (s : State) (x : MarkReader) : (s.setReader x).ev = s.ev := rfl
@[simp] theorem State.setReader_choices (s : State) (x : MarkReader) : (s.setReader x).choices = s.choices := rfl
@[simp] theorem State.setReader_pending (s : State) (x : MarkReader) : (s.setReader x).pending = s.pending := rfl
@[simp] theorem State.setReader_self (s : State) : s.setReader s.reader = s := rfl
@[simp] theorem State.setReader_setReader (s : State) (x y : MarkReader) : (s.setReader x).setReader y = s.setReader y := rfl

@[simp] theorem State.setTable_links (s : State) (x : SetTable) : (s.setTable x).links = s.links := rfl
@[simp] theorem State.setTable_web (s : State) (x : SetTable) : (s.setTable x).web = s.web := rfl
@[simp] theorem State.setTable_reader (s : State) (x : SetTable) : (s.setTable x).reader = s.reader := rfl
@[simp] theorem State.setTable_table (s : State) (x : SetTable) : (s.setTable x).table = x := rfl
@[simp] theorem State.setTable_track (s : State) (x : SetTable) : (s.setTable x).track = s.track := rfl
@[simp] theorem State.setTable_firing (s : State) (x : SetTable) : (s.setTable x).firing = s.firing := rfl
@[simp] theorem State.setTable_acc (s : State) (x : SetTable) : (s.setTable x).acc = s.acc := rfl
@[simp] theorem State.setTable_folder (s : State) (x : SetTable) : (s.setTable x).folder = s.folder := rfl
@[simp] theorem State.setTable_belt (s : State) (x : SetTable) : (s.setTable x).belt = s.belt := rfl
@[simp] theorem State.setTable_line (s : State) (x : SetTable) : (s.setTable x).line = s.line := rfl
@[simp] theorem State.setTable_ev (s : State) (x : SetTable) : (s.setTable x).ev = s.ev := rfl
@[simp] theorem State.setTable_choices (s : State) (x : SetTable) : (s.setTable x).choices = s.choices := rfl
@[simp] theorem State.setTable_pending (s : State) (x : SetTable) : (s.setTable x).pending = s.pending := rfl
@[simp] theorem State.setTable_self (s : State) : s.setTable s.table = s := rfl
@[simp] theorem State.setTable_setTable (s : State) (x y : SetTable) : (s.setTable x).setTable y = s.setTable y := rfl

@[simp] theorem State.setTrack_links (s : State) (x : Tracking) : (s.setTrack x).links = s.links := rfl
@[simp] theorem State.setTrack_web (s : State) (x : Tracking) : (s.setTrack x).web = s.web := rfl
@[simp] theorem State.setTrack_reader (s : State) (x : Tracking) : (s.setTrack x).reader = s.reader := rfl
@[simp] theorem State.setTrack_table (s : State) (x : Tracking) : (s.setTrack x).table = s.table := rfl
@[simp] theorem State.setTrack_track (s : State) (x : Tracking) : (s.setTrack x).track = x := rfl
@[simp] theorem State.setTrack_firing (s : State) (x : Tracking) : (s.setTrack x).firing = s.firing := rfl
@[simp] theorem State.setTrack_acc (s : State) (x : Tracking) : (s.setTrack x).acc = s.acc := rfl
@[simp] theorem State.setTrack_folder (s : State) (x : Tracking) : (s.setTrack x).folder = s.folder := rfl
@[simp] theorem State.setTrack_belt (s : State) (x : Tracking) : (s.setTrack x).belt = s.belt := rfl
@[simp] theorem State.setTrack_line (s : State) (x : Tracking) : (s.setTrack x).line = s.line := rfl
@[simp] theorem State.setTrack_ev (s : State) (x : Tracking) : (s.setTrack x).ev = s.ev := rfl
@[simp] theorem State.setTrack_choices (s : State) (x : Tracking) : (s.setTrack x).choices = s.choices := rfl
@[simp] theorem State.setTrack_pending (s : State) (x : Tracking) : (s.setTrack x).pending = s.pending := rfl
@[simp] theorem State.setTrack_self (s : State) : s.setTrack s.track = s := rfl
@[simp] theorem State.setTrack_setTrack (s : State) (x y : Tracking) : (s.setTrack x).setTrack y = s.setTrack y := rfl

@[simp] theorem State.setFiring_links (s : State) (x : Scheduler) : (s.setFiring x).links = s.links := rfl
@[simp] theorem State.setFiring_web (s : State) (x : Scheduler) : (s.setFiring x).web = s.web := rfl
@[simp] theorem State.setFiring_reader (s : State) (x : Scheduler) : (s.setFiring x).reader = s.reader := rfl
@[simp] theorem State.setFiring_table (s : State) (x : Scheduler) : (s.setFiring x).table = s.table := rfl
@[simp] theorem State.setFiring_track (s : State) (x : Scheduler) : (s.setFiring x).track = s.track := rfl
@[simp] theorem State.setFiring_firing (s : State) (x : Scheduler) : (s.setFiring x).firing = x := rfl
@[simp] theorem State.setFiring_acc (s : State) (x : Scheduler) : (s.setFiring x).acc = s.acc := rfl
@[simp] theorem State.setFiring_folder (s : State) (x : Scheduler) : (s.setFiring x).folder = s.folder := rfl
@[simp] theorem State.setFiring_belt (s : State) (x : Scheduler) : (s.setFiring x).belt = s.belt := rfl
@[simp] theorem State.setFiring_line (s : State) (x : Scheduler) : (s.setFiring x).line = s.line := rfl
@[simp] theorem State.setFiring_ev (s : State) (x : Scheduler) : (s.setFiring x).ev = s.ev := rfl
@[simp] theorem State.setFiring_choices (s : State) (x : Scheduler) : (s.setFiring x).choices = s.choices := rfl
@[simp] theorem State.setFiring_pending (s : State) (x : Scheduler) : (s.setFiring x).pending = s.pending := rfl
@[simp] theorem State.setFiring_self (s : State) : s.setFiring s.firing = s := rfl
@[simp] theorem State.setFiring_setFiring (s : State) (x y : Scheduler) : (s.setFiring x).setFiring y = s.setFiring y := rfl

@[simp] theorem State.setAcc_links (s : State) (x : Accumulator) : (s.setAcc x).links = s.links := rfl
@[simp] theorem State.setAcc_web (s : State) (x : Accumulator) : (s.setAcc x).web = s.web := rfl
@[simp] theorem State.setAcc_reader (s : State) (x : Accumulator) : (s.setAcc x).reader = s.reader := rfl
@[simp] theorem State.setAcc_table (s : State) (x : Accumulator) : (s.setAcc x).table = s.table := rfl
@[simp] theorem State.setAcc_track (s : State) (x : Accumulator) : (s.setAcc x).track = s.track := rfl
@[simp] theorem State.setAcc_firing (s : State) (x : Accumulator) : (s.setAcc x).firing = s.firing := rfl
@[simp] theorem State.setAcc_acc (s : State) (x : Accumulator) : (s.setAcc x).acc = x := rfl
@[simp] theorem State.setAcc_folder (s : State) (x : Accumulator) : (s.setAcc x).folder = s.folder := rfl
@[simp] theorem State.setAcc_belt (s : State) (x : Accumulator) : (s.setAcc x).belt = s.belt := rfl
@[simp] theorem State.setAcc_line (s : State) (x : Accumulator) : (s.setAcc x).line = s.line := rfl
@[simp] theorem State.setAcc_ev (s : State) (x : Accumulator) : (s.setAcc x).ev = s.ev := rfl
@[simp] theorem State.setAcc_choices (s : State) (x : Accumulator) : (s.setAcc x).choices = s.choices := rfl
@[simp] theorem State.setAcc_pending (s : State) (x : Accumulator) : (s.setAcc x).pending = s.pending := rfl
@[simp] theorem State.setAcc_self (s : State) : s.setAcc s.acc = s := rfl
@[simp] theorem State.setAcc_setAcc (s : State) (x y : Accumulator) : (s.setAcc x).setAcc y = s.setAcc y := rfl

@[simp] theorem State.setFolder_links (s : State) (x : Folder) : (s.setFolder x).links = s.links := rfl
@[simp] theorem State.setFolder_web (s : State) (x : Folder) : (s.setFolder x).web = s.web := rfl
@[simp] theorem State.setFolder_reader (s : State) (x : Folder) : (s.setFolder x).reader = s.reader := rfl
@[simp] theorem State.setFolder_table (s : State) (x : Folder) : (s.setFolder x).table = s.table := rfl
@[simp] theorem State.setFolder_track (s : State) (x : Folder) : (s.setFolder x).track = s.track := rfl
@[simp] theorem State.setFolder_firing (s : State) (x : Folder) : (s.setFolder x).firing = s.firing := rfl
@[simp] theorem State.setFolder_acc (s : State) (x : Folder) : (s.setFolder x).acc = s.acc := rfl
@[simp] theorem State.setFolder_folder (s : State) (x : Folder) : (s.setFolder x).folder = x := rfl
@[simp] theorem State.setFolder_belt (s : State) (x : Folder) : (s.setFolder x).belt = s.belt := rfl
@[simp] theorem State.setFolder_line (s : State) (x : Folder) : (s.setFolder x).line = s.line := rfl
@[simp] theorem State.setFolder_ev (s : State) (x : Folder) : (s.setFolder x).ev = s.ev := rfl
@[simp] theorem State.setFolder_choices (s : State) (x : Folder) : (s.setFolder x).choices = s.choices := rfl
@[simp] theorem State.setFolder_pending (s : State) (x : Folder) : (s.setFolder x).pending = s.pending := rfl
@[simp] theorem State.setFolder_self (s : State) : s.setFolder s.folder = s := rfl
@[simp] theorem State.setFolder_setFolder (s : State) (x y : Folder) : (s.setFolder x).setFolder y = s.setFolder y := rfl

@[simp] theorem State.setBelt_links (s : State) (x : Delivery) : (s.setBelt x).links = s.links := rfl
@[simp] theorem State.setBelt_web (s : State) (x : Delivery) : (s.setBelt x).web = s.web := rfl
@[simp] theorem State.setBelt_reader (s : State) (x : Delivery) : (s.setBelt x).reader = s.reader := rfl
@[simp] theorem State.setBelt_table (s : State) (x : Delivery) : (s.setBelt x).table = s.table := rfl
@[simp] theorem State.setBelt_track (s : State) (x : Delivery) : (s.setBelt x).track = s.track := rfl
@[simp] theorem State.setBelt_firing (s : State) (x : Delivery) : (s.setBelt x).firing = s.firing := rfl
@[simp] theorem State.setBelt_acc (s : State) (x : Delivery) : (s.setBelt x).acc = s.acc := rfl
@[simp] theorem State.setBelt_folder (s : State) (x : Delivery) : (s.setBelt x).folder = s.folder := rfl
@[simp] theorem State.setBelt_belt (s : State) (x : Delivery) : (s.setBelt x).belt = x := rfl
@[simp] theorem State.setBelt_line (s : State) (x : Delivery) : (s.setBelt x).line = s.line := rfl
@[simp] theorem State.setBelt_ev (s : State) (x : Delivery) : (s.setBelt x).ev = s.ev := rfl
@[simp] theorem State.setBelt_choices (s : State) (x : Delivery) : (s.setBelt x).choices = s.choices := rfl
@[simp] theorem State.setBelt_pending (s : State) (x : Delivery) : (s.setBelt x).pending = s.pending := rfl
@[simp] theorem State.setBelt_self (s : State) : s.setBelt s.belt = s := rfl
@[simp] theorem State.setBelt_setBelt (s : State) (x y : Delivery) : (s.setBelt x).setBelt y = s.setBelt y := rfl

@[simp] theorem State.setLine_links (s : State) (x : Supervisor) : (s.setLine x).links = s.links := rfl
@[simp] theorem State.setLine_web (s : State) (x : Supervisor) : (s.setLine x).web = s.web := rfl
@[simp] theorem State.setLine_reader (s : State) (x : Supervisor) : (s.setLine x).reader = s.reader := rfl
@[simp] theorem State.setLine_table (s : State) (x : Supervisor) : (s.setLine x).table = s.table := rfl
@[simp] theorem State.setLine_track (s : State) (x : Supervisor) : (s.setLine x).track = s.track := rfl
@[simp] theorem State.setLine_firing (s : State) (x : Supervisor) : (s.setLine x).firing = s.firing := rfl
@[simp] theorem State.setLine_acc (s : State) (x : Supervisor) : (s.setLine x).acc = s.acc := rfl
@[simp] theorem State.setLine_folder (s : State) (x : Supervisor) : (s.setLine x).folder = s.folder := rfl
@[simp] theorem State.setLine_belt (s : State) (x : Supervisor) : (s.setLine x).belt = s.belt := rfl
@[simp] theorem State.setLine_line (s : State) (x : Supervisor) : (s.setLine x).line = x := rfl
@[simp] theorem State.setLine_ev (s : State) (x : Supervisor) : (s.setLine x).ev = s.ev := rfl
@[simp] theorem State.setLine_choices (s : State) (x : Supervisor) : (s.setLine x).choices = s.choices := rfl
@[simp] theorem State.setLine_pending (s : State) (x : Supervisor) : (s.setLine x).pending = s.pending := rfl
@[simp] theorem State.setLine_self (s : State) : s.setLine s.line = s := rfl
@[simp] theorem State.setLine_setLine (s : State) (x y : Supervisor) : (s.setLine x).setLine y = s.setLine y := rfl

@[simp] theorem State.setEv_links (s : State) (x : Event) : (s.setEv x).links = s.links := rfl
@[simp] theorem State.setEv_web (s : State) (x : Event) : (s.setEv x).web = s.web := rfl
@[simp] theorem State.setEv_reader (s : State) (x : Event) : (s.setEv x).reader = s.reader := rfl
@[simp] theorem State.setEv_table (s : State) (x : Event) : (s.setEv x).table = s.table := rfl
@[simp] theorem State.setEv_track (s : State) (x : Event) : (s.setEv x).track = s.track := rfl
@[simp] theorem State.setEv_firing (s : State) (x : Event) : (s.setEv x).firing = s.firing := rfl
@[simp] theorem State.setEv_acc (s : State) (x : Event) : (s.setEv x).acc = s.acc := rfl
@[simp] theorem State.setEv_folder (s : State) (x : Event) : (s.setEv x).folder = s.folder := rfl
@[simp] theorem State.setEv_belt (s : State) (x : Event) : (s.setEv x).belt = s.belt := rfl
@[simp] theorem State.setEv_line (s : State) (x : Event) : (s.setEv x).line = s.line := rfl
@[simp] theorem State.setEv_ev (s : State) (x : Event) : (s.setEv x).ev = x := rfl
@[simp] theorem State.setEv_choices (s : State) (x : Event) : (s.setEv x).choices = s.choices := rfl
@[simp] theorem State.setEv_pending (s : State) (x : Event) : (s.setEv x).pending = s.pending := rfl
@[simp] theorem State.setEv_self (s : State) : s.setEv s.ev = s := rfl
@[simp] theorem State.setEv_setEv (s : State) (x y : Event) : (s.setEv x).setEv y = s.setEv y := rfl

end Sys2Proof.Machine
end

