-- ==== Sys2Proof/Laws/Moves.lean ====
section
/-! SUPPORT. Said once: the moves that a step is made of. A move is one update of one block, with what limits it; the
lemmas of Laws/Moves*.lean show that every operation of the machine is a sequence of moves, so that a property that every
move keeps is kept by every step. -/

namespace Sys2Proof.Machine

/-- What a sequence of moves is part of, and what it may change. -/
structure During where
  /-- the command, if it is one's -/
  cmd : Option Instr := none
  /-- it is the step without a command, which fills the queue -/
  idle : Bool := false
  /-- it may change the web, the reader and the belt, and the folder beyond the last handed-over set -/
  blocks : Bool := false
  /-- it may change the ports beyond their pending conditions -/
  sends : Bool := false

/-- A command. -/
abbrev During.of (i : Instr) : During := { cmd := some i, blocks := true, sends := true }

/-- The rule of a request of command i. -/
abbrev During.rule (i : Instr) : During := { cmd := some i, blocks := true }

/-- An operation that several commands share. -/
abbrev During.inner : During := {}

/-- The step without a command. -/
abbrev During.idling : During := { idle := true, blocks := true, sends := true }

/-- How a move may change a port (R170, R171, R174). -/
structure PortMove (c : During) (a b : PortState) : Prop where
  down : b.link = .down → (b.queue = [] ∧ b.rx = none ∧ b.tx = []) ∨
    (a.link = .down ∧ b.queue.length ≤ a.queue.length ∧ (a.rx = none → b.rx = none) ∧ b.tx.length ≤ a.tx.length)
  queue : b.queue.length ≤ max 4 a.queue.length
  quiet : c.sends = true ∨ b = { a with conds := b.conds }

/-- How a move within command c may change the Line Supervisor: FAULTED is left only by PURGE, RUNNING is entered only by
START, the first fault cause stays while FAULTED but for a power-up, the geometry changes only by LOAD_GEOMETRY. -/
structure LineMove (c : During) (a b : Supervisor) : Prop where
  ok : LineOk a → LineOk b
  leave : a.state = .faulted → b.state ≠ .faulted → c.cmd = some .purge
  run : a.state ≠ .running → b.state = .running → c.cmd = some .start
  first : a.state = .faulted → b.state = .faulted →
    (b.record.cause = a.record.cause ∧ b.record.set = a.record.set) ∨ ∃ x y, c.cmd = some (.powerUp x y)
  jog : b.holds.jogForced = a.holds.jogForced
  sweep : b.sweep = true → a.sweep = true
  geometry : (b.geometry = a.geometry ∧ b.geometryLoaded = a.geometryLoaded) ∨ c.cmd = some .loadGeometry

/-- How a move within command c may change a record: its number stays, its declared fields change only by AMEND_SET, and a
cause once recorded stays. -/
structure RecordMove (c : During) (r r' : SetRec) : Prop where
  number : r'.number = r.number
  declared : SameDeclared r r' ∨ c.cmd = some .amendSet
  cause : r.cause.isSome → r'.cause = r.cause

/-- One update during c. g says whether the Transit List may grow. -/
inductive Move (c : During) (g : Bool) : State → State → Prop
  | links (s : State) (x : Links) (h : ∀ p, PortMove c (s.links.get p) (x.get p)) : Move c g s (s.setLinks x)
  | web (s : State) (x : WebUnit) (k : c.blocks = true) (p : x.position = s.web.position ∨ ∃ d, c.cmd = some (.encoderStep d))
      (w : x.speed ≤ max 255 s.web.speed) : Move c g s (s.setWeb x)
  | reader (s : State) (x : MarkReader) (k : c.blocks = true) : Move c g s (s.setReader x)
  | ev (s : State) (x : Event) : Move c g s (s.setEv x)
  | drawn (s : State) : Move c g s s.drawn
  | pending (s : State) (x : List Instr) (h : c.idle = true) : Move c g s { s with pending := x }
  | lists (s : State) (x : SetTable) (h : x.records = s.table.records)
      (p : (x.profile = s.table.profile ∧ x.profileLoaded = s.table.profileLoaded) ∨ c.cmd = some .loadProfile) :
      Move c g s (s.setTable x)
  | records (s : State) (f : SetRec → SetRec) (h : ∀ r ∈ s.table.records, RecordMove c r (f r)) :
      Move c g s (s.setTable { s.table with records := s.table.records.map f })
  | free (s : State) (keep : SetRec → Bool) (h : c.cmd = some .takeCompletion ∨ c.cmd = some .takeReprint) :
      Move c g s (s.setTable { s.table with records := s.table.records.filter keep })
  | load (s : State) (r : SetRec) (h : c.cmd = some .loadSet) (room : s.table.records.length < 64)
      (number : ∀ x ∈ s.table.records, x.number ≠ r.number) (tag : ∀ x ∈ s.table.records, x.tag ≠ r.tag) :
      Move c g s (s.setTable { s.table with records := s.table.records ++ [r] })
  | track (s : State) (x : Tracking) (room : x.list.length ≤ s.track.list.length ∨ (g = true ∧ x.list.length ≤ 48))
      (id : x.nextId = s.track.nextId ∨ x.nextId < 65536) : Move c g s (s.setTrack x)
  | firing (s : State) (x : Scheduler) (room : x.queue.length ≤ max 32 s.firing.queue.length) : Move c g s (s.setFiring x)
  | acc (s : State) (x : Accumulator) (o : x.obligation = s.acc.obligation)
      (h : x.state = .releasing → s.acc.state = .releasing) : Move c g s (s.setAcc x)
  | obligation (s : State) (o : Obligation) :
      Move c g s ((s.setAcc { s.acc with obligation := o }).setLine
        { s.line with holds := s.line.holds.put .jogForced (o == .forced) })
  | handOver (s : State) (x : Accumulator) (o : x.obligation = s.acc.obligation) (f : s.folder.state = .idle)
      (b : s.belt.queue.length < 3) : Move c g s (s.setAcc x)
  | emptied (s : State) (k : c.blocks = true) : Move c g s ((s.setAcc Accumulator.empty).setLine { s.line with holds := HoldSet.none })
  | folder (s : State) (x : Folder)
      (h : x.set = none ∨ (x.set = s.folder.set ∧ (x.state = .idle → s.folder.state = .idle)))
      (k : c.blocks = true ∨ x = { s.folder with handed := x.handed }) : Move c g s (s.setFolder x)
  | enter (s : State) (a : Accumulator) (f : Folder) (k : c.blocks = true) (o : a.obligation = s.acc.obligation)
      (h : s.acc.state = .releasing) (h' : a.state ≠ .releasing) (i : s.folder.state = .idle) (j : f.state ≠ .idle) :
      Move c g s ((s.setAcc a).setFolder f)
  | exit (s : State) (f : Folder) (b : Delivery) (k : c.blocks = true) (h : s.folder.set.isSome) (h' : f.set = none)
      (q : b.queue.length = s.belt.queue.length + 1) : Move c g s ((s.setFolder f).setBelt b)
  | belt (s : State) (x : Delivery) (k : c.blocks = true) (h : x.queue.length ≤ s.belt.queue.length) : Move c g s (s.setBelt x)
  | line (s : State) (x : Supervisor) (h : LineMove c s.line x) : Move c g s (s.setLine x)
  | cold (s : State) (retain closed : Bool) (x : Guard) (h : c.cmd = some (.powerUp retain closed)) (cold : retain = false) :
      Move c g s (coldStart x s)

/-- A sequence of moves during c. -/
abbrev Moves (c : During) (g : Bool) : State → State → Prop := Relation.ReflTransGen (Move c g)

namespace Moves

variable {c : During} {g : Bool} {s t : State}

theorem here (s : State) : Moves c g s s := .refl

theorem links (h : Moves c g s t) (x : Links) (p : ∀ p, PortMove c (t.links.get p) (x.get p)) : Moves c g s (t.setLinks x) :=
  h.tail (.links t x p)
theorem web (h : Moves c g s t) (x : WebUnit) (k : c.blocks = true) (p : x.position = t.web.position ∨ ∃ d, c.cmd = some (.encoderStep d))
    (w : x.speed ≤ max 255 t.web.speed) : Moves c g s (t.setWeb x) := h.tail (.web t x k p w)
theorem reader (h : Moves c g s t) (x : MarkReader) (k : c.blocks = true) : Moves c g s (t.setReader x) :=
  h.tail (.reader t x k)
theorem ev (h : Moves c g s t) (x : Event) : Moves c g s (t.setEv x) := h.tail (.ev t x)
theorem drawn (h : Moves c g s t) : Moves c g s t.drawn := h.tail (.drawn t)
theorem lists (h : Moves c g s t) (x : SetTable) (r : x.records = t.table.records)
    (p : (x.profile = t.table.profile ∧ x.profileLoaded = t.table.profileLoaded) ∨ c.cmd = some .loadProfile) :
    Moves c g s (t.setTable x) := h.tail (.lists t x r p)
theorem records (h : Moves c g s t) (f : SetRec → SetRec) (r : ∀ r ∈ t.table.records, RecordMove c r (f r)) :
    Moves c g s (t.setTable { t.table with records := t.table.records.map f }) := h.tail (.records t f r)
theorem track (h : Moves c g s t) (x : Tracking) (room : x.list.length ≤ t.track.list.length ∨ (g = true ∧ x.list.length ≤ 48))
    (id : x.nextId = t.track.nextId ∨ x.nextId < 65536) : Moves c g s (t.setTrack x) := h.tail (.track t x room id)
theorem firing (h : Moves c g s t) (x : Scheduler) (room : x.queue.length ≤ max 32 t.firing.queue.length) :
    Moves c g s (t.setFiring x) := h.tail (.firing t x room)
theorem acc (h : Moves c g s t) (x : Accumulator) (o : x.obligation = t.acc.obligation)
    (r : x.state = .releasing → t.acc.state = .releasing) : Moves c g s (t.setAcc x) := h.tail (.acc t x o r)
theorem folder (h : Moves c g s t) (x : Folder)
    (f : x.set = none ∨ (x.set = t.folder.set ∧ (x.state = .idle → t.folder.state = .idle)))
    (k : c.blocks = true ∨ x = { t.folder with handed := x.handed }) :
    Moves c g s (t.setFolder x) := h.tail (.folder t x f k)
theorem belt (h : Moves c g s t) (x : Delivery) (k : c.blocks = true) (b : x.queue.length ≤ t.belt.queue.length) : Moves c g s (t.setBelt x) :=
  h.tail (.belt t x k b)
theorem line (h : Moves c g s t) (x : Supervisor) (l : LineMove c t.line x) : Moves c g s (t.setLine x) :=
  h.tail (.line t x l)

end Moves

/-! ### Ports -/

@[simp] theorem Links.put_get (l : Links) (p : Port) : l.put p (l.get p) = l := by cases p <;> rfl
@[simp] theorem Links.get_put_self (l : Links) (p : Port) (x : PortState) : (l.put p x).get p = x := by cases p <;> rfl
theorem Links.get_put_of_ne {p q : Port} (h : q ≠ p) (l : Links) (x : PortState) : (l.put p x).get q = l.get q := by
  cases p <;> cases q <;> first | rfl | exact absurd rfl h

theorem PortMove.refl {c : During} (a : PortState) : PortMove c a a :=
  ⟨fun h => .inr ⟨h, le_refl _, id, le_refl _⟩, le_max_right _ _, .inr rfl⟩

/-- A port whose link, queue, frame in progress and frames to send stay. -/
theorem PortMove.conds {c : During} (a : PortState) (x : List PendingCond) : PortMove c a { a with conds := x } :=
  ⟨fun h => .inr ⟨h, le_refl _, id, le_refl _⟩, le_max_right _ _, .inr rfl⟩

theorem PortMove.off {c : During} (k : c.sends = true) (a : PortState) (x : List PendingCond) : PortMove c a (PortState.poweredUp x) :=
  ⟨fun _ => .inl ⟨rfl, rfl, rfl⟩, Nat.zero_le _, .inl k⟩

/-- A port whose link is UP afterwards and whose queue stays in bounds. -/
theorem PortMove.up {c : During} {a b : PortState} (k : c.sends = true) (h : b.link = .up)
    (q : b.queue.length ≤ max 4 a.queue.length) : PortMove c a b :=
  ⟨fun d => by rw [h] at d; exact absurd d (by decide), q, .inl k⟩

theorem Moves.port {c : During} {g : Bool} {s t : State} (h : Moves c g s t) (p : Port) (x : PortState)
    (m : PortMove c (t.port p) x) : Moves c g s (t.setPort p x) := by
  refine h.links _ fun q => ?_
  by_cases hq : q = p
  · subst hq; simpa [State.port] using m
  · rw [Links.get_put_of_ne hq]; exact .refl _

@[simp] theorem State.setPort_port_self (s : State) (p : Port) (x : PortState) : (s.setPort p x).port p = x := by
  simp [State.port, State.setPort]

theorem State.setPort_port_of_ne {p q : Port} (h : q ≠ p) (s : State) (x : PortState) :
    (s.setPort p x).port q = s.port q := Links.get_put_of_ne h s.links x

/-! ### Records -/

theorem RecordMove.refl (c : During) (r : SetRec) : RecordMove c r r :=
  ⟨rfl, .inl ⟨rfl, rfl, rfl, rfl, rfl⟩, fun _ => rfl⟩

/-! ### The line -/

theorem LineMove.same {c : During} {a b : Supervisor} (hs : b.state = a.state) (hr : b.record = a.record)
    (hg : b.guard = a.guard) (hw : b.sweep = a.sweep) (hj : b.holds.jogForced = a.holds.jogForced)
    (h1 : b.geometry = a.geometry) (h2 : b.geometryLoaded = a.geometryLoaded) : LineMove c a b := by
  refine ⟨fun h => ⟨?_, ?_, ?_, ?_⟩, ?_, ?_, fun _ _ => .inl (by rw [hr]; exact ⟨rfl, rfl⟩), hj, by rw [hw]; exact id, .inl ⟨h1, h2⟩⟩
  · rw [hs, hg]; exact h.guardClosed
  · rw [hs, hr]; exact h.recordEmpty
  · rw [hs, hr]; exact h.recordHeld
  · rw [hs, hw]; exact h.sweeping
  · rw [hs]; exact fun x y => absurd x y
  · rw [hs]; exact fun x y => absurd y x

/-- The line enters FAULTED. -/
theorem LineMove.faulted {c : During} (a b : Supervisor) (ha : a.state ≠ .faulted) (hs : b.state = .faulted)
    (hr : b.record.cause.isSome)
    (hw : b.sweep = true → a.sweep = true) (hj : b.holds.jogForced = a.holds.jogForced) (h1 : b.geometry = a.geometry)
    (h2 : b.geometryLoaded = a.geometryLoaded) : LineMove c a b := by
  refine ⟨fun _ => ⟨?_, ?_, fun _ => hr, fun _ => hs⟩, ?_, ?_, fun x => absurd x ha, hj, hw, .inl ⟨h1, h2⟩⟩
  · rw [hs]; exact fun x => absurd x (by decide)
  · exact fun x => absurd hs x
  · exact fun _ x => absurd hs x
  · rw [hs]; exact fun _ x => absurd x (by decide)

end Sys2Proof.Machine
end

