-- ==== Sys2Proof/Laws/MovesFlags.lean ====
section
/-! SUPPORT. The operations of Flags.lean and Ops.lean are sequences of moves. -/

namespace Sys2Proof.Machine

variable {c : During} {g : Bool} {s t : State}

@[simp] theorem SetRec.put_number (x : SetState) (r : SetRec) : (r.put x).number = r.number := by
  unfold SetRec.put; split <;> rfl

@[simp] theorem SetRec.put_cause (x : SetState) (r : SetRec) : (r.put x).cause = r.cause := by
  unfold SetRec.put; split <;> rfl

@[simp] theorem SetRec.put_reported (x : SetState) (r : SetRec) : (r.put x).reported = r.reported := by
  unfold SetRec.put; split <;> rfl

theorem SetRec.put_declared (x : SetState) (r : SetRec) : SameDeclared r (r.put x) := by
  unfold SetRec.put; split <;> exact ⟨rfl, rfl, rfl, rfl, rfl⟩

/-- A set that is not terminal is put in any state. -/
theorem SetRec.put_open (x : SetState) {r : SetRec} (h : r.state.terminal = false) :
    r.put x = { r with state := x } := by
  simp [SetRec.put, h]

/-- A terminal set keeps its state (R8). -/
theorem SetRec.put_terminal (x : SetState) {r : SetRec} (h : r.state.terminal = true) : r.put x = r := by
  simp [SetRec.put, h]

namespace Moves

theorem raiseCond (h : Moves c g s t) (k : Cond) (x : CondParam) : Moves c g s (raiseCond k x t) := by
  unfold Machine.raiseCond; dsimp only
  split
  · exact h.port _ _ (.conds _ _)
  · exact (h.port _ _ (.conds _ _)).ev _

theorem removeCond (h : Moves c g s t) (k : Cond) : Moves c g s (removeCond k t) := h.port _ _ (.conds _ _)

theorem produce (h : Moves c g s t) (k : c.sends = true) (p : Port) (f : TxFrame) : Moves c g s (produce p f t) := by
  unfold Machine.produce
  split
  · exact h
  · rename_i up; exact h.port _ _ (.up k up (le_max_right _ _))

theorem sendNotices (h : Moves c g s t) (k : c.sends = true) (p : Port) (w : Cond → Bool) : Moves c g s (sendNotices p w t) := by
  unfold Machine.sendNotices
  split
  · exact h
  · rename_i up; exact h.port _ _ (.up k up (le_max_right _ _))

theorem flushNotices (h : Moves c g s t) (k : c.sends = true) : Moves c g s (flushNotices t) :=
  (((h.sendNotices k .job _).sendNotices k .line _).sendNotices k .delivery _).ev _

theorem holds (h : Moves c g s t) (k : HoldCause) (b : Bool) (hk : k ≠ .jogForced) :
    Moves c g s (t.setLine { t.line with holds := t.line.holds.put k b }) :=
  h.line _ (.same rfl rfl rfl rfl (by cases k <;> first | rfl | exact absurd rfl hk) rfl rfl)

theorem setHold (h : Moves c g s t) (k : HoldCause) (b : Bool) (hk : k ≠ .jogForced) : Moves c g s (setHold k b t) := by
  unfold Machine.setHold; dsimp only
  split
  · exact h
  · split
    · exact (h.holds k b hk).raiseCond _ _
    · exact h.holds k b hk
    · exact h.holds k b hk

theorem lineFault (h : Moves c g s t) (k : LineCause) (n : Option Nat) : Moves c g s (lineFault k n t) := by
  unfold Machine.lineFault
  split
  · rename_i f
    refine h.line _ ⟨fun o => ⟨?_, ?_, ?_, o.sweeping⟩, fun x y => absurd x y, fun x y => absurd y x, fun _ _ => .inl ⟨rfl, rfl⟩, rfl,
      id, .inl ⟨rfl, rfl⟩⟩
    · exact o.guardClosed
    · exact fun x => absurd f x
    · exact o.recordHeld
  · rename_i r
    refine (h.line _ ?_).raiseCond _ _
    exact .faulted _ _ (by rw [r]; decide) rfl rfl id rfl rfl rfl
  · rename_i r
    refine (h.line _ ?_).raiseCond _ _
    exact .faulted _ _ (by rw [r]; decide) rfl rfl id rfl rfl rfl

theorem withTally (h : Moves c g s t) (f : Tally → Tally) : Moves c g s (t.withTally f) :=
  h.line _ (.same rfl rfl rfl rfl rfl rfl rfl)

/-! ### Records -/

/-- An update of a set's record that keeps its declared fields and its cause. -/
theorem updateSet (h : Moves c g s t) (n : Nat) (f : SetRec → SetRec) (hf : ∀ r, RecordMove c r (f r)) :
    Moves c g s (updateSet n f t) :=
  h.records _ fun r _ => by
    split
    · exact hf r
    · exact .refl c r

theorem putSetState (h : Moves c g s t) (n : Nat) (x : SetState) : Moves c g s (putSetState n x t) :=
  h.updateSet n _ fun r => ⟨r.put_number x, .inl (r.put_declared x), fun _ => r.put_cause x⟩

theorem setList (h : Moves c g s t) (l : List SheetEntry) (hl : l.length ≤ t.track.list.length) : Moves c g s (t.setList l) :=
  h.track _ (.inl hl) (.inl rfl)

theorem updateSheet (h : Moves c g s t) (id : Nat) (f : SheetEntry → SheetEntry) : Moves c g s (updateSheet id f t) :=
  h.setList _ (by simp)

theorem removeSheet (h : Moves c g s t) (id : Nat) : Moves c g s (removeSheet id t) :=
  h.setList _ (List.length_filter_le _ _)

theorem evalTrackFull (h : Moves c g s t) : Moves c g s (evalTrackFull t) := by
  unfold Machine.evalTrackFull
  split
  · exact h.setHold _ _ (by decide)
  · split
    · exact h.setHold _ _ (by decide)
    · exact h

theorem detachSheets (h : Moves c g s t) (n : Nat) : Moves c g s (detachSheets n t) := h.setList _ (by simp)

theorem askEnded (h : Moves c g s t) (n : Nat) : Moves c g s (t.askEnded n) := h.ev _
theorem askDump (h : Moves c g s t) : Moves c g s t.askDump := h.ev _
theorem askPlan (h : Moves c g s t) : Moves c g s t.askPlan := h.ev _
theorem askAwait (h : Moves c g s t) : Moves c g s t.askAwait := h.ev _

theorem makeTerminal (h : Moves c g s t) (n : Nat) (x : SetState) : Moves c g s (makeTerminal n x t) := by
  unfold Machine.makeTerminal
  split
  · exact (((h.putSetState n x).withTally _).detachSheets n).askEnded n
  · exact h

theorem testDiverted (h : Moves c g s t) (n : Nat) : Moves c g s (testDiverted n t) := by
  unfold Machine.testDiverted
  split
  · exact h.makeTerminal _ _
  · exact h

theorem testDivertedOpt (h : Moves c g s t) (n : Option Nat) : Moves c g s (testDivertedOpt n t) := by
  cases n
  · exact h
  · exact h.testDiverted _

theorem wasteSheets (h : Moves c g s t) (n : Nat) : Moves c g s (wasteSheets n t) := h.setList _ (by simp)

theorem turnToWaste (h : Moves c g s t) (n : Nat) : Moves c g s (turnToWaste n t) := by
  unfold Machine.turnToWaste
  split
  · exact (h.wasteSheets n).askPlan
  · exact h.wasteSheets n

theorem stopHoldOf (h : Moves c g s t) (n : Nat) : Moves c g s (stopHoldOf n t) := by
  unfold Machine.stopHoldOf
  split
  · exact h.acc _ rfl id
  · exact h

theorem followRef (h : Moves c g s t) (n : Nat) : Moves c g s (followRef n t) := h.track _ (.inl le_rfl) (.inl rfl)

theorem fail (h : Moves c g s t) (n : Nat) (k : SetCause) (i : Option Nat) : Moves c g s (Machine.updateSet n (SetRec.fail k i) t) :=
  h.updateSet n _ fun r => by
    unfold SetRec.fail
    split
    · rename_i o
      refine ⟨rfl, .inl ⟨rfl, rfl, rfl, rfl, rfl⟩, fun x => ?_⟩
      simp [SetRec.open] at o
      rw [o.2] at x; exact absurd x (by decide)
    · exact .refl c r

theorem recordCause (h : Moves c g s t) (n : Nat) (k : SetCause) (i : Option Nat) : Moves c g s (recordCause n k i t) := by
  unfold Machine.recordCause
  split
  · exact h
  · split
    · exact (((((h.fail n k i).stopHoldOf n).followRef n).turnToWaste n).askDump).testDiverted n
    · exact h

theorem recordCauseOpt (h : Moves c g s t) (n : Option Nat) (k : SetCause) : Moves c g s (recordCauseOpt n k t) := by
  cases n
  · exact h
  · exact h.recordCause _ _ _

theorem joinCompletion (h : Moves c g s t) (n : Nat) : Moves c g s (joinCompletion n t) := by
  have l : Moves c g s (t.setTable { t.table with completion := t.table.completion ++ [n] }) :=
    h.lists _ rfl (.inl ⟨rfl, rfl⟩)
  unfold Machine.joinCompletion; dsimp only
  split
  · exact l.raiseCond _ _
  · exact l

theorem joinReprint (h : Moves c g s t) (n : Nat) : Moves c g s (joinReprint n t) := by
  have l : Moves c g s (t.setTable { t.table with reprint := placeReprint t n t.table.reprint }) :=
    h.lists _ rfl (.inl ⟨rfl, rfl⟩)
  unfold Machine.joinReprint; dsimp only
  split
  · exact l.raiseCond _ _
  · exact l

theorem joinReprintIf (h : Moves c g s t) (n : Nat) : Moves c g s (joinReprintIf n t) := by
  unfold Machine.joinReprintIf
  split
  · split
    · exact h.joinReprint n
    · exact h
  · exact h

theorem joinQueues (h : Moves c g s t) (n : Nat) : Moves c g s (joinQueues t n) := (h.joinCompletion n).joinReprintIf n

/-- A fold of an operation over a list. -/
theorem foldl {α : Type} (f : State → α → State) (hf : ∀ u x, Moves c g s u → Moves c g s (f u x)) (xs : List α) :
    ∀ {u : State}, Moves c g s u → Moves c g s (xs.foldl f u) := by
  induction xs with
  | nil => exact id
  | cons x xs ih => exact fun h => ih (hf _ x h)

theorem flushEnded (h : Moves c g s t) : Moves c g s (flushEnded t) :=
  Moves.foldl _ (fun _ n h => h.joinQueues n) _ (h.ev _)

theorem freeHanded (h : Moves c g s t) (n : Nat) : Moves c g s (freeHanded n t) :=
  h.folder _ (.inr ⟨rfl, id⟩) (.inr rfl)

theorem freeIfDone (h : Moves c g s t) (n : Nat) (k : c.cmd = some .takeCompletion ∨ c.cmd = some .takeReprint) :
    Moves c g s (freeIfDone n t) := by
  have d : Moves c g s (dropRecord n t) := h.tail (.free t _ k)
  unfold Machine.freeIfDone
  split
  · exact h
  · split
    · exact (d.freeHanded n).askAwait
    · exact h

end Moves

end Sys2Proof.Machine
end

