-- ==== Sys2Proof/Laws/MovesGate.lean ====
section
/-! SUPPORT. The operations of GatePlan.lean are sequences of moves. -/

namespace Sys2Proof.Machine

variable {c : During} {g : Bool} {s t : State}

@[simp] theorem insertFiring_length (p : Pos) (f : Firing) (q : List Firing) :
    (insertFiring p f q).length = q.length + 1 := by
  induction q with
  | nil => rfl
  | cons x q ih => unfold insertFiring; split <;> simp [ih]

theorem foldl_insertFiring_length (p : Pos) (q a : List Firing) :
    (q.foldl (fun acc f => insertFiring p f acc) a).length = a.length + q.length := by
  induction q generalizing a with
  | nil => simp
  | cons x q ih => simp [ih]; omega

@[simp] theorem orderQueue_length (p : Pos) (q : List Firing) : (orderQueue p q).length = q.length := by
  simp [orderQueue, foldl_insertFiring_length]

namespace Moves

theorem setQueue (h : Moves c g s t) (q : List Firing) (hq : q.length ≤ max 32 t.firing.queue.length) :
    Moves c g s (t.setQueue q) := h.firing _ hq

theorem joinQueue (h : Moves c g s t) (f : Firing) (hq : t.firing.queue.length < 32) : Moves c g s (joinQueue f t) :=
  h.setQueue _ (by simp; omega)

theorem fire (h : Moves c g s t) (a : Actuator) : Moves c g s (fire a t) := by
  cases a <;> exact h.firing _ (le_max_right _ _)

theorem sendSheet (h : Moves c g s t) (id : Nat) (d : Disposition) : Moves c g s (sendSheet id d t) :=
  (h.updateSheet id _).askDump

theorem rewriteSheet (h : Moves c g s t) (id : Nat) (d : Disposition) : Moves c g s (rewriteSheet id d t) := by
  unfold Machine.rewriteSheet
  split
  · exact h
  · split
    · exact h
    · split
      · exact (h.sendSheet _ _).recordCauseOpt _ _
      · exact h.sendSheet _ _

theorem withhold (h : Moves c g s t) (a : Actuator) (d : Disposition) : Moves c g s (withhold a d t) := by
  cases a
  · exact h.lineFault _ _
  · exact h.rewriteSheet _ _

theorem countLate (h : Moves c g s t) (l : Int) : Moves c g s (countLate l t) := by
  unfold Machine.countLate
  split
  · exact h.withTally _
  · exact h

theorem takeDue (h : Moves c g s t) (f : Firing) (l : Int) (d : Disposition) : Moves c g s (takeDue f l d t).1 := by
  unfold Machine.takeDue
  split
  · exact h.withhold _ _
  · exact (h.countLate _).fire _

theorem askGuardPlan (h : Moves c g s t) : Moves c g s t.askGuardPlan := h.ev _

theorem askGuarded (h : Moves c g s t) (a : Actuator) : Moves c g s (askGuarded a t) := by
  unfold Machine.askGuarded
  split
  · exact h.askGuardPlan
  · exact h

theorem takeMade (h : Moves c g s t) (f : Firing) (l : Int) (d : Disposition) : Moves c g s (takeMade f l d t).1 := by
  unfold Machine.takeMade; dsimp only
  split
  · exact (h.takeDue _ _ _).askGuarded _
  · exact h.takeDue _ _ _

theorem makeFiring (h : Moves c g s t) (a : Actuator) (p : Pos) (d : Disposition) : Moves c g s (makeFiring a p d t).1 := by
  unfold Machine.makeFiring
  split
  · split
    · exact h.lineFault _ _
    · exact (h.lineFault _ _).rewriteSheet _ _
  · rename_i room
    dsimp only
    split
    · exact h.joinQueue _ (by simpa [queueCapacity] using room)
    · exact h.takeMade _ _ _

theorem requestKnife (h : Moves c g s t) (row : Pos) : Moves c g s (requestKnife row t) := by
  unfold Machine.requestKnife; dsimp only
  split
  · exact h
  · exact h.makeFiring _ _ _

theorem resetGate (h : Moves c g s t) (p : Pos) (d : Disposition) : Moves c g s (resetGate p d t) :=
  h.setQueue _ (by simp)

theorem walkFiring (h : Moves c g s t) (e : SheetEntry) (w r : Disposition) : Moves c g s (walkFiring e w r t).1 := by
  unfold Machine.walkFiring; dsimp only
  split
  · split
    · exact h
    · split
      · exact h
      · exact ((h.rewriteSheet _ _).rewriteSheet _ _).resetGate _ _
  · exact h.makeFiring _ _ _

theorem followSheet (h : Moves c g s t) (p e : SheetEntry) : Moves c g s (followSheet p e t) := by
  unfold Machine.followSheet
  split
  · exact h
  · exact h.rewriteSheet _ _

theorem walkWasted (h : Moves c g s t) (p e : SheetEntry) (r : Disposition) : Moves c g s (walkWasted p e r t).1 := by
  unfold Machine.walkWasted
  split
  · exact h
  · dsimp only
    split
    · exact (h.walkFiring _ _ _).followSheet _ _
    · exact h.walkFiring _ _ _

theorem walkPair (h : Moves c g s t) (p e : SheetEntry) (r : Disposition) : Moves c g s (walkPair p e r t).1 := by
  unfold Machine.walkPair; dsimp only
  split
  · split
    · exact (h.rewriteSheet _ _).resetGate _ _
    · exact (h.rewriteSheet _ _).walkWasted _ _ _
  · exact (h.rewriteSheet _ _).walkWasted _ _ _

theorem walkEntry (h : Moves c g s t) (p : Option Nat) (id : Nat) (r : Disposition) : Moves c g s (walkEntry p id r t).1 := by
  unfold Machine.walkEntry
  split
  · exact h
  · rename_i e _
    have alone : Moves c g s (if e.disposition = r then (t, r)
        else ((Machine.walkFiring e e.disposition r t).1, (Machine.walkFiring e e.disposition r t).2.1)).1 := by
      split
      · exact h
      · exact h.walkFiring _ _ _
    dsimp only
    split
    · exact alone
    · split
      · exact h.walkPair _ _ _
      · exact alone

theorem walk (ids : List Nat) : ∀ {t : State} (_ : Moves c g s t) (p : Option Nat) (r : Disposition),
    Moves c g s (walk p ids r t) := by
  induction ids with
  | nil => exact fun h _ _ => h.firing _ (le_max_right _ _)
  | cons id ids ih => exact fun h p r => ih (h.walkEntry p id r) _ _

theorem noneMade (h : Moves c g s t) : Moves c g s t.noneMade := h.ev _
theorem planAsked (h : Moves c g s t) : Moves c g s t.planAsked := h.ev _

theorem dropGates (h : Moves c g s t) : Moves c g s (dropGates t) :=
  h.setQueue _ (le_max_of_le_right (List.length_filter_le _ _))

theorem rederive (h : Moves c g s t) : Moves c g s (rederive t) := Moves.walk _ h.noneMade.dropGates _ _

theorem extendPlan (h : Moves c g s t) : Moves c g s (extendPlan t) := Moves.walk _ h.noneMade _ _

theorem replanLoop (n : Nat) : ∀ {t : State} (_ : Moves c g s t), Moves c g s (replanLoop n t) := by
  induction n with
  | zero => exact fun h => h
  | succ n ih =>
    intro t h
    unfold Machine.replanLoop
    split
    · exact ih h.planAsked.rederive
    · exact h

theorem replan (h : Moves c g s t) : Moves c g s (replan t) := Moves.replanLoop _ h

theorem planRow (h : Moves c g s t) : Moves c g s (planRow t) := by
  unfold Machine.planRow
  split
  · exact h
  · exact h.extendPlan

end Moves

/-- An event that asked for no re-derivation gets none. -/
theorem replan_idle (h : s.ev.planWanted = false) : replan s = s := by
  unfold replan replanLoop; simp [h]

end Sys2Proof.Machine
end

