-- ==== Sys2Proof/Laws/MovesStack.lean ====
section
/-! SUPPORT. The operations of Stack.lean, and the end of an event, are sequences of moves. -/

namespace Sys2Proof.Machine

variable {c : During} {g : Bool} {s t : State}

theorem HoldSet.put_of_has {h : HoldSet} {k : HoldCause} {b : Bool} (e : h.has k = b) : h.put k b = h := by
  cases k <;> subst e <;> rfl

/-- A set in place of itself. -/
theorem RecordMove.pass (c : During) (k : StepKind) (r : SetRec) : RecordMove c r (r.pass k) :=
  ⟨rfl, .inl ⟨rfl, rfl, rfl, rfl, rfl⟩, fun _ => rfl⟩

theorem RecordMove.finish (c : During) (k : StepKind) (r : SetRec) : RecordMove c r (r.finish k) :=
  ⟨rfl, .inl ⟨rfl, rfl, rfl, rfl, rfl⟩, fun _ => rfl⟩

theorem canHandOver_idle (h : canHandOver s = true) : s.folder.state = .idle ∧ s.belt.queue.length < 3 := by
  unfold canHandOver at h
  split at h
  · exact absurd h (by decide)
  · simp only [Bool.and_eq_true, beq_iff_eq, decide_eq_true_eq] at h
    exact h.1.1.1.1.1

namespace Moves

theorem beginHold (h : Moves c g s t) (n i : Nat) : Moves c g s (beginHold n i t) := by
  unfold Machine.beginHold
  have a : Moves c g s ((Machine.putSetState n .held t).setAcc
      { (Machine.putSetState n .held t).acc with holdTimer := msTimer (i * 1000) }) :=
    (h.putSetState n .held).acc _ rfl id
  exact a.raiseCond _ _

theorem takeSteps (n : Nat) : ∀ {t : State} (_ : Moves c g s t), Moves c g s (takeSteps n t) := by
  induction n with
  | zero => exact fun h => h
  | succ n ih =>
    intro t h
    unfold Machine.takeSteps
    split
    · exact h
    · rename_i r _
      split
      · split
        · split
          · exact ih (h.updateSet _ _ (.pass c _))
          · exact h.beginHold _ _
        · split
          · exact ih (h.updateSet _ _ (.pass c _))
          · exact h.putSetState _ _
        · exact h
      · exact h

theorem runSteps (h : Moves c g s t) : Moves c g s (runSteps t) := Moves.takeSteps _ h

theorem evalAccBlocked (h : Moves c g s t) : Moves c g s (evalAccBlocked t) := h.setHold _ _ (by decide)

theorem nameHanded (h : Moves c g s t) (r : SetRec) : Moves c g s (nameHanded r t) :=
  h.folder _ (.inr ⟨rfl, id⟩) (.inr rfl)

theorem startHandOver (h : Moves c g s t) (r : SetRec) (f : t.folder.state = .idle) (b : t.belt.queue.length < 3) :
    Moves c g s (startHandOver r t) := by
  have a : Moves c g s (startRelease (Machine.putSetState r.number .folding t)) :=
    (h.putSetState r.number .folding).tail (.handOver _ _ rfl f b)
  exact (a.nameHanded r).evalAccBlocked

theorem examHandOver (h : Moves c g s t) : Moves c g s (examHandOver t) := by
  unfold Machine.examHandOver
  split
  · split
    · rename_i ok
      exact h.startHandOver _ (canHandOver_idle ok).1 (canHandOver_idle ok).2
    · exact h
  · exact h

theorem startDump (h : Moves c g s t) : Moves c g s (startDump t) := by
  refine Moves.evalAccBlocked (h.acc _ ?_ ?_)
  · exact rfl
  · exact fun x => by cases x

theorem examDump (h : Moves c g s t) : Moves c g s (examDump t) := by
  unfold Machine.examDump
  split
  · exact h.startDump
  · exact h

theorem startStroke (h : Moves c g s t) (a b : Bool) : Moves c g s (startStroke a b t) := h.acc _ rfl id

theorem examSquaring (h : Moves c g s t) : Moves c g s (examSquaring t) := by
  unfold Machine.examSquaring
  split
  · split
    · exact h.startStroke _ _
    · exact h
  · exact h

theorem examObligation (h : Moves c g s t) : Moves c g s (examObligation t) := by
  unfold Machine.examObligation
  split
  · exact h
  · split
    · exact h.startStroke _ _
    · exact h

theorem setObligation (h : Moves c g s t) (o : Obligation) : Moves c g s (setObligation o t) := by
  have m : Moves c g s ((t.setAcc { t.acc with obligation := o }).setLine
      { t.line with holds := t.line.holds.put .jogForced (o == .forced) }) := h.tail (.obligation t o)
  unfold Machine.setObligation Machine.setHold; dsimp only
  split
  · rename_i e
    have e' : t.line.holds.has .jogForced = (o == .forced) := e
    rw [HoldSet.put_of_has e'] at m
    exact m
  · split
    · exact m.raiseCond _ _
    · exact m
    · exact m

theorem examStack (h : Moves c g s t) : Moves c g s (examStack t) := h.examDump.examHandOver.examSquaring

theorem goOn (h : Moves c g s t) : Moves c g s (goOn t) := h.runSteps.examHandOver.examSquaring

theorem endAwait (h : Moves c g s t) : Moves c g s (endAwait t) := by
  unfold Machine.endAwait
  split
  · split
    · exact (h.updateSet _ _ (.finish c _)).goOn
    · exact h
  · exact h

theorem examDumpIf (h : Moves c g s t) : Moves c g s (examDumpIf t) := by
  unfold Machine.examDumpIf
  split
  · exact h.examDump
  · exact h

theorem examAsked (h : Moves c g s t) : Moves c g s (examAsked t) := by
  unfold Machine.examAsked
  split
  · exact h.endAwait.examDumpIf
  · exact h.examDumpIf

theorem settle (h : Moves c g s t) : Moves c g s (settle t) := h.replan.examAsked.flushEnded

/-- A machine event is a sequence of moves when its own rule is. -/
theorem event (k : c.sends = true) (rule : State → State) (r : Moves c g s (rule t.begin)) : Moves c g s (event rule t) :=
  (r.settle.flushNotices k).ev _

theorem begin (h : Moves c g s t) : Moves c g s t.begin := h.ev _

end Moves

end Sys2Proof.Machine
end

