-- ==== Sys2Proof/Laws/MovesRow.lean ====
section
/-! SUPPORT. The operations of Matching.lean and RowReading.lean are sequences of moves. -/

namespace Sys2Proof.Machine

variable {c : During} {g : Bool} {s t : State}

theorem Move.list_length {u v : State} (m : Move c false u v) : v.track.list.length ≤ u.track.list.length := by
  cases m <;> first | exact le_rfl | skip
  · rename_i room _; exact room.elim (fun x => x) fun x => absurd x.1 (by decide)
  · exact Nat.zero_le _

/-- The Transit List does not grow where it may not. -/
theorem Moves.list_length (h : Moves c false s t) : t.track.list.length ≤ s.track.list.length := by
  induction h with
  | refl => exact le_rfl
  | tail _ m ih => exact m.list_length.trans ih

namespace Moves

theorem setRef (h : Moves c g s t) (r : ReadingRef) : Moves c g s (t.setRef r) := h.track _ (.inl le_rfl) (.inl rfl)
theorem setOrphanRun (h : Moves c g s t) (b : Bool) : Moves c g s (t.setOrphanRun b) :=
  h.track _ (.inl le_rfl) (.inl rfl)

theorem makeOrphan (h : Moves c g s t) (x : Option Nat) (r : OrphanReason) : Moves c g s (makeOrphan x r t) := by
  unfold Machine.makeOrphan
  split
  · exact h
  · exact (h.raiseCond _ _).setOrphanRun _

theorem assignSheet (h : Moves c g s t) (id n : Nat) (p : Option Nat) (d : Disposition) :
    Moves c g s (assignSheet id n p d t) := h.updateSheet _ _

theorem assignToRun (h : Moves c g s t) (id n : Nat) : Moves c g s (assignToRun id n t) := by
  unfold Machine.assignToRun
  split
  · exact h.assignSheet _ _ _ _
  · exact h

/-- An update of a set's record that leaves its declared fields and its cause as they are. -/
theorem plain (h : Moves c g s t) (n : Nat) (f : SetRec → SetRec) (hn : ∀ r, (f r).number = r.number)
    (hd : ∀ r, SameDeclared r (f r)) (hc : ∀ r, (f r).cause = r.cause) : Moves c g s (Machine.updateSet n f t) :=
  h.updateSet n f fun r => ⟨hn r, .inl (hd r), fun _ => hc r⟩

theorem acceptPage (h : Moves c g s t) (id n : Nat) (m : Mark) : Moves c g s (acceptPage id n m t) := by
  have a : Moves c g s (Machine.assignSheet id n (some m.page) .accumulate
      (Machine.updateSet n (fun r => { r with pagesRead := r.pagesRead + 1 }) t)) := by
    refine Moves.assignSheet (h.plain n _ ?_ ?_ ?_) _ _ _ _
    · exact fun _ => rfl
    · exact fun _ => ⟨rfl, rfl, rfl, rfl, rfl⟩
    · exact fun _ => rfl
  unfold Machine.acceptPage; dsimp only
  split
  · refine Moves.setRef (a.plain n _ ?_ ?_ ?_) _
    · exact fun _ => rfl
    · exact fun _ => ⟨rfl, rfl, rfl, rfl, rfl⟩
    · exact fun _ => rfl
  · exact a

theorem matchReading (h : Moves c g s t) (id n : Nat) (m : Mark) : Moves c g s (matchReading id n m t) := by
  have a : Moves c g s (Machine.assignSheet id n none .waste t) := h.assignSheet _ _ _ _
  unfold Machine.matchReading
  split
  · exact h
  · split
    · exact a.recordCause _ _ _
    · split
      · exact (a.recordCause _ _ _).setRef _
      · split
        · exact a.recordCause _ _ _
        · exact h.acceptPage _ _ _

theorem startSet (h : Moves c g s t) (r : SetRec) : Moves c g s (startSet r t) := by
  refine Moves.setRef (h.plain r.number _ ?_ ?_ ?_) _
  · exact fun _ => rfl
  · exact fun _ => ⟨rfl, rfl, rfl, rfl, rfl⟩
  · exact fun _ => rfl

theorem matchFirst (h : Moves c g s t) (id : Nat) (m : Mark) : Moves c g s (matchFirst id m t) := by
  unfold Machine.matchFirst
  split
  · exact h.makeOrphan _ _
  · split
    · exact h.makeOrphan _ _
    · split
      · exact h.makeOrphan _ _
      · exact (h.startSet _).matchReading _ _ _
      · exact h.makeOrphan _ _

theorem matchStart (h : Moves c g s t) (id : Nat) (m : Mark) : Moves c g s (matchStart id m t) := by
  unfold Machine.matchStart
  split
  · exact h.makeOrphan _ _
  · exact (h.setOrphanRun _).matchFirst _ _

theorem matchRun (h : Moves c g s t) (id n : Nat) (m : Mark) : Moves c g s (matchRun id n m t) := by
  unfold Machine.matchRun; dsimp only
  split
  · exact (h.assignToRun _ _).setRef _
  · exact h.assignToRun _ _

theorem matchPage (h : Moves c g s t) (id : Nat) (m : Mark) : Moves c g s (matchPage id m t) := by
  unfold Machine.matchPage
  split
  · exact h.matchStart _ _
  · split
    · exact h.matchReading _ _ _
    · exact ((h.recordCause _ _ _).setRef _).matchStart _ _
  · split
    · exact h.matchRun _ _ _
    · exact (h.setRef _).matchStart _ _

theorem faultReading (h : Moves c g s t) (k : SetCause) : Moves c g s (faultReading k t) := by
  unfold Machine.faultReading
  split
  · exact h.recordCause _ _ _
  · exact h

theorem matchBanner (h : Moves c g s t) : Moves c g s (matchBanner t) :=
  ((h.faultReading _).setRef _).setOrphanRun _

theorem matchUnread (h : Moves c g s t) (id : Nat) : Moves c g s (matchUnread id t) := by
  unfold Machine.matchUnread
  split
  · exact (h.assignSheet _ _ _ _).recordCause _ _ _
  · exact h.assignToRun _ _
  · exact h.makeOrphan _ _

theorem matchEntry (h : Moves c g s t) (id : Nat) (d : Decoded) : Moves c g s (matchEntry id d t) := by
  unfold Machine.matchEntry
  split
  · exact h.matchUnread _
  · split
    · exact h
    · exact h.matchBanner
    · exact h.matchPage _ _
    · exact h.matchPage _ _

theorem retireWaste (h : Moves c g s t) (e : SheetEntry) : Moves c g s (retireWaste e t) :=
  ((h.removeSheet _).evalTrackFull).testDivertedOpt _

theorem retireLost (h : Moves c g s t) (e : SheetEntry) : Moves c g s (retireLost e t) :=
  (((((h.removeSheet _).evalTrackFull).recordCauseOpt _ _).testDivertedOpt _).lineFault _ _).askDump

theorem retireAtOnce (h : Moves c g s t) (id : Nat) : Moves c g s (retireAtOnce id t) := by
  unfold Machine.retireAtOnce
  split
  · split
    · exact h.retireWaste _
    · split
      · exact h.retireLost _
      · exact h
  · exact h

theorem noteMade (h : Moves c g s t) (id : Nat) : Moves c g s (t.noteMade id) := h.ev _

/-- What is done to a sheet once its entry stands in the list. -/
theorem afterAppend (h : Moves c g s t) (id : Nat) (d : Decoded) :
    Moves c g s ((Machine.retireAtOnce id (Machine.matchEntry id d (t.noteMade id))).withTally Tally.tracked) :=
  (((h.noteMade id).matchEntry id d).retireAtOnce id).withTally _

theorem appendEntry (h : Moves c true s t) (e : SheetEntry) (room : t.track.list.length < 48) :
    Moves c true s (appendEntry e t) := by
  refine h.track _ (.inr ⟨rfl, ?_⟩) (.inr ?_)
  · simp; omega
  · exact Nat.mod_lt _ (by decide)

theorem enterSheet (h : Moves c true s t) (row : Pos) (x : RowSheet) (room : t.track.list.length < 48) :
    Moves c true s (enterSheet row t x) := (h.appendEntry _ room).afterAppend _ _

/-- Entering a sheet adds at most one entry to the list. -/
theorem enterSheet_length (row : Pos) (x : RowSheet) (t : State) :
    (Machine.enterSheet row t x).track.list.length ≤ t.track.list.length + 1 := by
  have h : Moves .inner false (Machine.appendEntry (newEntry t row x) t) (Machine.enterSheet row t x) :=
    (Moves.here _).afterAppend _ _
  exact h.list_length.trans (by simp [Machine.appendEntry])

theorem enterSheets (row : Pos) (xs : List RowSheet) : ∀ {t : State} (_ : Moves c true s t)
    (_ : t.track.list.length + xs.length ≤ 48), Moves c true s (xs.foldl (Machine.enterSheet row) t) := by
  induction xs with
  | nil => exact fun h _ => h
  | cons x xs ih =>
    intro t h room
    have l := enterSheet_length row x t
    simp only [List.length_cons] at room
    exact ih (h.enterSheet row x (by omega)) (by omega)

theorem refuseRow (h : Moves c g s t) (row : Pos) : Moves c g s (refuseRow row t) :=
  ((h.lineFault _ _).faultReading _).requestKnife _

theorem enterRow (h : Moves c true s t) (r : DecodedRow) : Moves c true s (enterRow r t) := by
  unfold Machine.enterRow
  split
  · exact h.refuseRow _
  · rename_i room
    exact ((Moves.enterSheets r.row r.sheets h (by simpa [listCapacity] using room)).requestKnife _).planRow.evalTrackFull

theorem trackLockLoss (h : Moves c g s t) : Moves c g s (trackLockLoss t) := ((h.faultReading _).setRef _).setOrphanRun _

/-! ### The Mark Reader -/

theorem offerCapture (h : Moves c g s t) (k : c.blocks = true) (o : Capture) : Moves c g s (offerCapture o t) := by
  unfold Machine.offerCapture; dsimp only
  split
  · exact (h.reader _ k).raiseCond _ _
  · split
    · exact h.reader _ k
    · exact h

theorem captureMark (h : Moves c g s t) (k : c.blocks = true) (l : Lane) (p : Pos) (b : Bool) (x : Cells) (d : Decoded) :
    Moves c g s (captureMark l p b x d t) := by
  unfold Machine.captureMark
  split
  · exact h.offerCapture k _
  · exact h

theorem enterHunt (h : Moves c g s t) (k : c.blocks = true) : Moves c g s (enterHunt t) := h.reader _ k

theorem loseLock (h : Moves c g s t) (k : c.blocks = true) : Moves c g s (loseLock t) := ((h.enterHunt k).raiseCond _ _).trackLockLoss

theorem advanceRow (h : Moves c g s t) (k : c.blocks = true) (r : OpenRow) : Moves c g s (advanceRow r t) :=
  h.reader _ k

theorem countRow (h : Moves c g s t) (r : DecodedRow) : Moves c g s (countRow r t) := h.withTally _

theorem closeOne (h : Moves c true s t) (k : c.blocks = true) (r : OpenRow) : Moves c true s (closeOne r t) := by
  have e : Moves c true s (Machine.enterRow (decodedRow t r) (Machine.countRow (decodedRow t r) (Machine.advanceRow r t))) :=
    ((h.advanceRow k r).countRow _).enterRow _
  unfold Machine.closeOne; dsimp only
  split
  · exact e.loseLock k
  · exact e

theorem closePassed (n : Nat) (k : c.blocks = true) : ∀ {t : State} (_ : Moves c true s t),
    Moves c true s (closePassed n t) := by
  induction n with
  | zero => exact fun h => h
  | succ n ih =>
    intro t h
    unfold Machine.closePassed
    split
    · split
      · exact ih (h.closeOne k _)
      · exact h
    · exact h

theorem closeRow (h : Moves c true s t) (k : c.blocks = true) (r : OpenRow) : Moves c true s (closeRow r t) :=
  (h.closeOne k r).closePassed 2 k

theorem matchBar (h : Moves c true s t) (k : c.blocks = true) (r : OpenRow) (l : Lane) (p : Pos) (x : Cells) (b : Bool) :
    Moves c true s (matchBar r l p x b t) := by
  unfold Machine.matchBar; dsimp only
  split
  · exact ((h.reader _ k).captureMark k _ _ _ _ _).closeRow k _
  · exact (h.reader _ k).captureMark k _ _ _ _ _

theorem lockOn (h : Moves c g s t) (k : c.blocks = true) (p : Pos) : Moves c g s (lockOn p t) := h.reader _ k

theorem takeBar (h : Moves c true s t) (k : c.blocks = true) (l : Lane) (p : Pos) (x : Cells) (b : Bool) :
    Moves c true s (takeBar l p x b t) := by
  unfold Machine.takeBar
  split
  · split
    · exact h.matchBar k _ _ _ _ _
    · exact h
  · exact ((h.lockOn k _).setHold _ _ (by decide)).matchBar k _ _ _ _ _

theorem evalHunting (h : Moves c g s t) : Moves c g s (evalHunting t) := by
  unfold Machine.evalHunting
  split
  · split
    · exact h.setHold _ _ (by decide)
    · exact h
  · exact h.setHold _ _ (by decide)

end Moves

end Sys2Proof.Machine
end

