-- ==== Sys2Proof/Laws/MovesRules.lean ====
section
/-! SUPPORT. The operations of BeltOps.lean and LineOps.lean, and the rules of the requests, are sequences of moves. -/

namespace Sys2Proof.Machine

variable {c : During} {g : Bool} {s t : State}

theorem RecordMove.interrupt (c : During) (r : SetRec) : RecordMove c r r.interrupt := by
  unfold SetRec.interrupt
  split
  · refine ⟨rfl, .inl ⟨rfl, rfl, rfl, rfl, rfl⟩, fun x => ?_⟩
    obtain ⟨k, hk⟩ := Option.isSome_iff_exists.mp x
    simp [hk]
  · exact .refl c r

/-- The sweep is begun by a power-up alone. -/
theorem Move.sweep_off {u v : State} (m : Move c g u v) (hc : ∀ a b, c.cmd ≠ some (.powerUp a b)) (h : u.line.sweep = false) :
    v.line.sweep = false := by
  cases m with
  | line x m =>
    have := m.sweep
    rw [h] at this
    exact Bool.eq_false_iff.mpr fun y => absurd (this y) (by decide)
  | cold retain closed x hh => exact absurd hh (hc _ _)
  | _ => exact h

theorem Moves.sweep_off (h : Moves c g s t) (hc : ∀ a b, c.cmd ≠ some (.powerUp a b)) (off : s.line.sweep = false) :
    t.line.sweep = false := by
  induction h with
  | refl => exact off
  | tail _ m ih => exact m.sweep_off hc ih

namespace Moves

/-! ### The belt -/

theorem startTravel (h : Moves c g s t) (k : c.blocks = true) : Moves c g s (startTravel t) := h.belt _ k le_rfl
theorem notAtEnd (h : Moves c g s t) (k : c.blocks = true) : Moves c g s (notAtEnd t) := h.belt _ k le_rfl

theorem leaveTo (h : Moves c g s t) (k : c.blocks = true) (n : Nat) (f : Folder) (i : t.folder.set.isSome) (e : f.set = none) :
    Moves c g s (leaveTo n f t) := h.tail (.exit _ f _ k i e (by simp))

theorem joinBelt (h : Moves c g s t) (k : c.blocks = true) (n : Nat) (f : Folder) (i : t.folder.set.isSome) (e : f.set = none) :
    Moves c g s (joinBelt n f t) := by
  unfold Machine.joinBelt; dsimp only
  split
  · refine ((Moves.leaveTo ?_ k n f ?_ e).notAtEnd k).startTravel k <;> split <;> first | exact h.putSetState _ _ | exact h | exact i
  · refine Moves.leaveTo ?_ k n f ?_ e <;> split <;> first | exact h.putSetState _ _ | exact h | exact i

theorem leaveBelt (h : Moves c g s t) (k : c.blocks = true) : Moves c g s (leaveBelt t) := by
  refine Moves.startTravel (k := k) (h.belt _ k ?_)
  simp

theorem examBeltGate (h : Moves c g s t) (k : c.blocks = true) : Moves c g s (examBeltGate t) := by
  unfold Machine.examBeltGate
  split
  · exact h.belt _ k le_rfl
  · exact h

theorem wantBeltGate (h : Moves c g s t) (k : c.blocks = true) : Moves c g s (wantBeltGate t) := by
  refine Moves.examBeltGate (k := k) (h.belt _ k ?_)
  exact le_rfl

theorem makeOffer (h : Moves c g s t) (k : c.blocks = true) (n : Nat) : Moves c g s (makeOffer n t) := by
  refine Moves.raiseCond (Moves.putSetState (h.belt _ k ?_) _ _) _ _
  exact le_rfl

theorem endOffer (h : Moves c g s t) (k : c.blocks = true) : Moves c g s (endOffer t) := by
  refine Moves.removeCond (h.belt _ k ?_) _
  exact le_rfl

theorem withdrawOffer (h : Moves c g s t) (k : c.blocks = true) : Moves c g s (withdrawOffer t) := by
  unfold Machine.withdrawOffer
  split
  · exact (h.endOffer k).raiseCond _ _
  · exact h

theorem routeHead (h : Moves c g s t) (k : c.blocks = true) (n : Nat) : Moves c g s (routeHead n t) := by
  unfold Machine.routeHead
  split
  · exact h
  · split
    · exact h.wantBeltGate k
    · split
      · exact (h.recordCause _ _ _).wantBeltGate k
      · split
        · exact h.makeOffer k _
        · exact h

theorem updateTravel (h : Moves c g s t) (k : c.blocks = true) : Moves c g s (updateTravel t) := by
  unfold Machine.updateTravel
  split
  · split
    · exact h.belt _ k le_rfl
    · exact h
  · split
    · exact h.startTravel k
    · exact h

/-! ### Abandoning and purging -/

theorem interruptSets (h : Moves c g s t) : Moves c g s (interruptSets t) := h.records _ fun r _ => .interrupt c r

theorem emptyTracking (h : Moves c g s t) : Moves c g s (emptyTracking t) := h.track _ (.inl (Nat.zero_le _)) (.inl rfl)

theorem emptyFiring (h : Moves c g s t) : Moves c g s (emptyFiring t) := h.firing _ (Nat.zero_le _)

theorem emptyStack (h : Moves c g s t) (k : c.blocks = true) : Moves c g s (emptyStack t) := h.tail (.emptied _ k)

theorem abandonFolder (h : Moves c g s t) (k : c.blocks = true) : Moves c g s (leaveFolderAs Folder.abandon t) := by
  refine h.folder _ (.inl ?_) (.inl k)
  unfold Folder.abandon; rfl

theorem purgeFolder (h : Moves c g s t) (k : c.blocks = true) : Moves c g s (leaveFolderAs Folder.purge t) := h.folder _ (.inl rfl) (.inl k)

theorem emptyBelt (h : Moves c g s t) (k : c.blocks = true) : Moves c g s (emptyBelt t) := h.belt _ k (Nat.zero_le _)

theorem abandonMachine (h : Moves c g s t) (k : c.blocks = true) : Moves c g s (abandonMachine t) :=
  ((((h.interruptSets.emptyTracking.emptyFiring.emptyStack k).abandonFolder k).withdrawOffer k).emptyBelt k).enterHunt k

theorem purgeSet (h : Moves c g s t) (n : Nat) : Moves c g s (purgeSet t n) := by
  refine Moves.makeTerminal (h.updateSet n _ ?_) _ _
  refine fun r => ⟨rfl, .inl ⟨rfl, rfl, rfl, rfl, rfl⟩, fun x => ?_⟩
  obtain ⟨k, hk⟩ := Option.isSome_iff_exists.mp x
  simp [hk]

theorem purgeSets (h : Moves c g s t) : Moves c g s (purgeSets t) :=
  Moves.foldl _ (fun _ n h => h.purgeSet n) _ h

theorem purgeEmptied (h : Moves c g s t) (k : c.blocks = true) : Moves c g s (emptyMachine Folder.purge (Machine.purgeSets t)) :=
  ((((h.purgeSets.emptyTracking.emptyFiring.emptyStack k).purgeFolder k).withdrawOffer k).emptyBelt k).enterHunt k

theorem stopClean (h : Moves c g s t) (hc : c.cmd = some .purge) (off : t.line.sweep = false) :
    Moves c g s (stopClean t) := by
  refine h.line _ ⟨fun _ => ⟨?_, fun _ => rfl, ?_, ?_⟩, fun _ _ => hc, ?_, fun _ x => (by cases x), rfl, id,
    .inl ⟨rfl, rfl⟩⟩
  · exact fun x => by cases x
  · exact fun x => by cases x
  · exact fun x => by rw [off] at x; cases x
  · exact fun _ x => by cases x

theorem purgeMachine (h : Moves c g s t) (k : c.blocks = true) (hc : c.cmd = some .purge) (off : t.line.sweep = false) :
    Moves c g s (purgeMachine t) := by
  have p : Moves c g t (emptyMachine Folder.purge (Machine.purgeSets t)) := (Moves.here t).purgeEmptied k
  exact (h.purgeEmptied k).stopClean hc (p.sweep_off (by rw [hc]; nofun) off)

/-! ### The job port -/

theorem withEmptyBody (rule : State → State × Reply) (body : List Byte) (h : Moves c g s t)
    (r : Moves c g s (rule t).1) : Moves c g s (withEmptyBody rule body t).1 := by
  unfold Machine.withEmptyBody
  split
  · exact r
  · exact h

theorem withSetNumber (rule : Nat → State → State × Reply) (body : List Byte) (h : Moves c g s t)
    (r : ∀ n, Moves c g s (rule n t).1) : Moves c g s (withSetNumber rule body t).1 := by
  unfold Machine.withSetNumber
  split
  · exact r _
  · exact h

theorem loadProfileRule (h : Moves c g s t) (k : c.blocks = true) (hc : c.cmd = some .loadProfile) (body : List Byte) :
    Moves c g s (loadProfileRule body t).1 := by
  unfold Machine.loadProfileRule
  split
  · exact h
  · split
    · exact h
    · split
      · exact h
      · rename_i p _ _ _
        have l : Moves c g s (t.setTable { t.table with profile := p, profileLoaded := true }) :=
          h.lists _ rfl (.inr hc)
        exact ((l.enterHunt k).setRef _).setOrphanRun _

theorem loadSetRule (h : Moves c g s t) (hc : c.cmd = some .loadSet) (body : List Byte) :
    Moves c g s (loadSetRule body t).1 := by
  unfold Machine.loadSetRule
  split
  · exact h
  · rename_i room
    split
    · exact h
    · rename_i d _
      split
      · exact h
      · rename_i number
        split
        · exact h
        · rename_i tag
          split
          · exact h
          · refine h.tail (.load _ d.record hc (by simpa [tableCapacity] using room) ?_ ?_)
            · simpa [State.findSet, Descriptor.record] using number
            · simpa [State.findTag] using tag

theorem amendRecord (h : Moves c g s t) (hc : c.cmd = some .amendSet) (r : SetRec) (raw : Amendment) (a : Amend) :
    Moves c g s (amendRecord r raw a t).1 := by
  have u : Moves c g s (Machine.updateSet r.number a.merge t) :=
    h.updateSet _ _ fun r => ⟨rfl, .inr hc, fun _ => rfl⟩
  unfold Machine.amendRecord
  split
  · exact h
  · dsimp only
    split
    · exact h
    · dsimp only
      split
      · exact u.goOn
      · exact u

theorem amendSetRule (h : Moves c g s t) (hc : c.cmd = some .amendSet) (body : List Byte) :
    Moves c g s (amendSetRule body t).1 := by
  unfold Machine.amendSetRule
  split
  · exact h
  · split
    · exact h
    · split
      · exact h
      · split
        · exact h
        · exact h.amendRecord hc _ _ _

theorem cancelSetRule (h : Moves c g s t) (body : List Byte) : Moves c g s (cancelSetRule body t).1 := by
  refine Moves.withSetNumber _ _ h fun n => ?_
  split
  · exact h
  · exact h.makeTerminal _ _
  · split <;> exact h

theorem endHold (h : Moves c g s t) (n : Nat) : Moves c g s (endHold n t) := by
  refine Moves.goOn (Moves.updateSet (h.acc _ ?_ ?_) _ _ (.finish c _))
  · exact rfl
  · exact id

theorem releaseSetRule (h : Moves c g s t) (body : List Byte) : Moves c g s (releaseSetRule body t).1 := by
  refine Moves.withSetNumber _ _ h fun n => ?_
  split
  · exact h
  · split
    · exact h
    · split
      · exact h
      · split
        · exact h.endHold _
        · split
          · refine h.plain n _ ?_ ?_ ?_
            · exact fun _ => rfl
            · exact fun _ => ⟨rfl, rfl, rfl, rfl, rfl⟩
            · exact fun _ => rfl
          · exact h

theorem querySetRule (h : Moves c g s t) (body : List Byte) : Moves c g s (querySetRule body t).1 := by
  refine Moves.withSetNumber _ _ h fun n => ?_
  split <;> exact h

theorem reportHead (h : Moves c g s t) (n : Nat) : Moves c g s (reportHead n t) := by
  have l : Moves c g s (t.setTable { t.table with completion := t.table.completion.tail }) :=
    h.lists _ rfl (.inl ⟨rfl, rfl⟩)
  refine l.plain n _ ?_ ?_ ?_
  · exact fun _ => rfl
  · exact fun _ => ⟨rfl, rfl, rfl, rfl, rfl⟩
  · exact fun _ => rfl

theorem takeCompletionRule (h : Moves c g s t) (hc : c.cmd = some .takeCompletion) (body : List Byte) :
    Moves c g s (takeCompletionRule body t).1 := by
  refine Moves.withEmptyBody _ _ h ?_
  dsimp only
  split
  · exact h
  · split
    · exact h.reportHead _
    · exact (h.reportHead _).freeIfDone _ (.inl hc)

theorem takeReprintRule (h : Moves c g s t) (hc : c.cmd = some .takeReprint) (body : List Byte) :
    Moves c g s (takeReprintRule body t).1 := by
  refine Moves.withEmptyBody _ _ h ?_
  dsimp only
  split
  · exact h
  · rename_i n rest _
    have l : Moves c g s (t.setTable { t.table with reprint := rest }) := h.lists _ rfl (.inl ⟨rfl, rfl⟩)
    split
    · exact l
    · exact l.freeIfDone _ (.inr hc)

/-! ### The line port -/

theorem loadGeometryRule (h : Moves c g s t) (hc : c.cmd = some .loadGeometry) (body : List Byte) :
    Moves c g s (loadGeometryRule body t).1 := by
  unfold Machine.loadGeometryRule
  split
  · exact h
  · split
    · exact h
    · dsimp only
      split
      · exact h
      · refine h.line _ ⟨fun o => ⟨o.guardClosed, o.recordEmpty, o.recordHeld, o.sweeping⟩, fun x y => absurd x y,
          fun x y => absurd y x, fun _ _ => .inl ⟨rfl, rfl⟩, rfl, id, .inr hc⟩

theorem clearFlags (h : Moves c g s t) (k : c.blocks = true) : Moves c g s (clearFlags t) := h.web _ k (.inl rfl) (le_max_right _ _)

theorem restartHunt (h : Moves c g s t) (k : c.blocks = true) : Moves c g s (restartHunt t) := by
  unfold Machine.restartHunt
  split
  · exact h.reader _ k
  · exact h

theorem grantStart (h : Moves c g s t) (k : c.blocks = true) (hc : c.cmd = some .start) (st : t.line.state = .stopped)
    (gu : t.line.guard = .closed) (off : t.line.sweep = false) : Moves c g s (grantStart t) := by
  have r : Moves c g s (t.setLine { t.line with state := .running }) := by
    refine h.line _ ⟨fun o => ⟨fun _ => gu, fun _ => ?_, fun x => ?_, fun x => ?_⟩, fun x => ?_, fun _ _ => hc,
      fun _ x => (by cases x), rfl, id,
      .inl ⟨rfl, rfl⟩⟩
    · exact o.recordEmpty (by rw [st]; decide)
    · cases x
    · rw [off] at x; cases x
    · rw [st] at x; cases x
  unfold Machine.grantStart; dsimp only
  split
  · exact (r.clearFlags k).restartHunt k
  · exact ((r.clearFlags k).restartHunt k).raiseCond _ _

theorem startRule (h : Moves c g s t) (k : c.blocks = true) (hc : c.cmd = some .start) (off : t.line.sweep = false) (body : List Byte) :
    Moves c g s (startRule body t).1 := by
  refine Moves.withEmptyBody _ _ h ?_
  split
  · exact h
  · split
    · exact h
    · rename_i gu
      split
      · exact h
      · rename_i st
        refine h.grantStart k hc (not_not.mp st) ?_ off
        cases e : t.line.guard
        · rfl
        · exact absurd e gu

theorem stopRule (h : Moves c g s t) (off : t.line.sweep = false) (body : List Byte) : Moves c g s (stopRule body t).1 := by
  refine Moves.withEmptyBody _ _ h ?_
  dsimp only
  split
  · rename_i st
    refine h.line _ ⟨fun o => ⟨fun x => ?_, fun _ => ?_, fun x => ?_, fun x => ?_⟩, fun x => ?_, fun _ x => ?_,
      fun _ x => (by cases x), rfl, id,
      .inl ⟨rfl, rfl⟩⟩
    · cases x
    · exact o.recordEmpty (by rw [st]; decide)
    · cases x
    · rw [off] at x; cases x
    · rw [st] at x; cases x
    · cases x
  · exact h

theorem purgeRule (h : Moves c g s t) (k : c.blocks = true) (hc : c.cmd = some .purge) (off : t.line.sweep = false) (body : List Byte) :
    Moves c g s (purgeRule body t).1 := by
  refine Moves.withEmptyBody _ _ h ?_
  split
  · exact h
  · split
    · exact h
    · split
      · exact h
      · exact h.purgeMachine k hc off

theorem resetLineRule (h : Moves c g s t) (k : c.blocks = true) (body : List Byte) : Moves c g s (resetLineRule body t).1 :=
  Moves.withEmptyBody _ _ h ((h.abandonMachine k).lineFault _ _)

theorem clearCaptureRule (h : Moves c g s t) (k : c.blocks = true) (body : List Byte) : Moves c g s (clearCaptureRule body t).1 :=
  Moves.withEmptyBody _ _ h (h.reader _ k)

theorem clearTallyRule (h : Moves c g s t) (body : List Byte) : Moves c g s (clearTallyRule body t).1 := by
  refine Moves.withEmptyBody _ _ h (h.line _ ?_)
  exact .same rfl rfl rfl rfl rfl rfl rfl

/-! ### The delivery port -/

theorem offerWaiting (h : Moves c g s t) (k : c.blocks = true) : Moves c g s (offerWaiting t) := by
  unfold Machine.offerWaiting
  split
  · split
    · exact h.makeOffer k _
    · exact h
  · exact h

theorem setReadyRule (h : Moves c g s t) (k : c.blocks = true) (body : List Byte) : Moves c g s (setReadyRule body t).1 := by
  refine Moves.withEmptyBody _ _ h ?_
  dsimp only
  split
  · exact h
  · refine Moves.offerWaiting (k := k) (h.belt _ k ?_)
    exact le_rfl

theorem setNotReadyRule (h : Moves c g s t) (k : c.blocks = true) (body : List Byte) : Moves c g s (setNotReadyRule body t).1 := by
  refine Moves.withEmptyBody _ _ h (h.belt _ k ?_)
  exact le_rfl

theorem acceptRule (h : Moves c g s t) (k : c.blocks = true) (body : List Byte) : Moves c g s (acceptRule body t).1 := by
  refine Moves.withSetNumber _ _ h fun n => ?_
  split
  · exact (((h.makeTerminal _ _).endOffer k).leaveBelt k).examHandOver
  · exact h

theorem refuseOffer (h : Moves c g s t) (k : c.blocks = true) (n x : Nat) : Moves c g s (refuseOffer n x t) := by
  refine Moves.wantBeltGate (k := k) (Moves.plain ((h.endOffer k).recordCause _ _ _) n _ ?_ ?_ ?_)
  · exact fun _ => rfl
  · exact fun _ => ⟨rfl, rfl, rfl, rfl, rfl⟩
  · exact fun _ => rfl

theorem refuseRule (h : Moves c g s t) (k : c.blocks = true) (body : List Byte) : Moves c g s (refuseRule body t).1 := by
  unfold Machine.refuseRule
  split
  · exact h
  · split
    · exact h.refuseOffer k _ _
    · exact h

/-! ### Every port -/

theorem readStatusRule (h : Moves c g s t) (p : Port) (body : List Byte) : Moves c g s (readStatusRule p body t).1 := by
  refine Moves.withEmptyBody _ _ h ?_
  dsimp only
  split
  · exact h.drawn
  · exact h

theorem readTallyRule (h : Moves c g s t) (body : List Byte) : Moves c g s (readTallyRule body t).1 :=
  Moves.withEmptyBody _ _ h h

theorem readCaptureRule (h : Moves c g s t) (body : List Byte) : Moves c g s (readCaptureRule body t).1 :=
  Moves.withEmptyBody _ _ h h

theorem clearConds (h : Moves c g s t) (p : Port) (cs : List Cond) : Moves c g s (clearConds p cs t) := by
  unfold Machine.clearConds; dsimp only
  exact Moves.foldl _ (fun _ _ h => h.raiseCond _ _) _ (Moves.foldl _ (fun _ _ h => h.removeCond _) _ h)

theorem clearConditionRule (h : Moves c g s t) (p : Port) (body : List Byte) :
    Moves c g s (clearConditionRule p body t).1 := by
  unfold Machine.clearConditionRule
  split
  · exact h
  · split
    · exact h
    · exact h.clearConds _ _

/-! ### Taking and answering -/

theorem answer (h : Moves c g s t) (k : c.sends = true) (p : Port) (x : Byte) (r : Reply) : Moves c g s (answer p x r t) :=
  ((h.settle.produce k _ _).flushNotices k).ev _

theorem popRequest (h : Moves c g s t) (k : c.sends = true) (p : Port) : Moves c g s (popRequest p t) := by
  refine h.port _ _ ⟨fun d => .inr ⟨d, ?_, id, le_rfl⟩, ?_, .inl k⟩
  · simp
  · simp

/-- A taken request is a sequence of moves when its rule is one while no sweep runs, and READ_STATUS's always. -/
theorem takeRequest (h : Moves c g s t) (k : c.sends = true) (p : Port) (x : RequestKind) (rule : Rule)
    (hr : ∀ (u : State) (body : List Byte), Moves c g s u → u.line.sweep = false ∨ x = .readStatus →
      Moves c g s (rule body u).1) : Moves c g s (takeRequest p x rule t) := by
  unfold Machine.takeRequest
  split
  · split
    · have b : Moves c g s (Machine.popRequest p t).begin := (h.popRequest k p).begin
      unfold decideRequest
      split
      · exact b.answer k _ _ _
      · split
        · exact b.answer k _ _ _
        · rename_i open_
          refine Moves.answer (hr _ _ b ?_) k _ _ _
          by_cases e : x = .readStatus
          · exact .inr e
          · left
            simpa [e] using open_
    · exact h
  · exact h

theorem takeUndefined (h : Moves c g s t) (k : c.sends = true) (p : Port) : Moves c g s (takeUndefined p t) := by
  unfold Machine.takeUndefined
  split
  · split
    · exact ((h.popRequest k p).begin).answer k _ _ _
    · exact h
  · exact h

end Moves

end Sys2Proof.Machine
end

