-- ==== Sys2Proof/Laws/MovesEvents.lean ====
section
/-! SUPPORT. The machine events are sequences of moves. -/

namespace Sys2Proof.Machine

variable {c : During} {g : Bool} {s t : State}

theorem speedOf_le (raw : Int) : speedOf raw ≤ 255 := by unfold speedOf; split <;> [omega; (split <;> omega)]

theorem lineFault_faulted (k : LineCause) (n : Option Nat) (s : State) : (lineFault k n s).line.state = .faulted := by
  have rc : ∀ (k : Cond) (x : CondParam) (u : State), (Machine.raiseCond k x u).line = u.line := by
    intro k x u; unfold Machine.raiseCond; dsimp only; split <;> rfl
  unfold lineFault
  split
  · rename_i f; exact f
  · rw [rc]; rfl
  · rw [rc]; rfl

namespace Moves

theorem quiet (z : c.sends = true) (rule : State → State) (r : Moves c g s (rule t.begin)) : Moves c g s (quiet rule t) :=
  (r.flushNotices z).ev _

theorem input (z : c.sends = true) (rule : State → State) (h : Moves c g s t)
    (r : ∀ u, Moves c g s u → u.line.sweep = false → Moves c g s (rule u)) : Moves c g s (input rule t) := by
  unfold Machine.input
  split
  · exact h
  · rename_i off
    exact .event z _ (r _ h.begin (Bool.eq_false_iff.mpr off))

theorem inFreeOrder {α : Type} (take : State → α → State) (hf : ∀ u x, Moves c g s u → Moves c g s (take u x))
    (xs : List α) (h : Moves c g s t) : Moves c g s (inFreeOrder take xs t) := by
  unfold Machine.inFreeOrder
  split
  · exact h
  · exact hf _ _ h
  · exact Moves.foldl _ hf _ h.drawn

/-! ### The links -/

theorem rejectFrame (h : Moves c g s t) (z : c.sends = true) (p : Port) : Moves c g s (rejectFrame p t) := by
  refine Moves.raiseCond (h.port p _ ⟨fun d => .inr ⟨?_, ?_, fun _ => ?_, ?_⟩, ?_, .inl z⟩) _ _
  · exact d
  · exact le_rfl
  · rfl
  · exact le_rfl
  · exact le_max_right _ _

theorem enqueue (h : Moves c g s t) (z : c.sends = true) (p : Port) (k : Byte) (b : List Byte) (up : (t.port p).link = .up) :
    Moves c g s (enqueue p k b t) := by
  unfold Machine.enqueue; dsimp only
  split
  · rename_i room
    refine h.port p _ (.up z up ?_)
    simp only [requestCapacity] at room
    simp; omega
  · refine Moves.raiseCond (h.port p _ (.up z ?_ ?_)) _ _
    · exact up
    · simp only [List.length_append, List.length_dropLast, List.length_cons, List.length_nil]; omega

theorem frameByte (h : Moves c g s t) (z : c.sends = true) (p : Port) (f : RxFrame) (b : RxByte) (up : (t.port p).link = .up) :
    Moves c g s (frameByte p f b t) := by
  unfold Machine.frameByte
  split
  · exact h.rejectFrame z _
  · split
    · exact h.port p _ (.up z up (le_max_right _ _))
    · exact h.rejectFrame z _
    · refine Moves.enqueue (h.port p _ (.up z ?_ ?_)) z _ _ _ ?_
      · exact up
      · exact le_max_right _ _
      · rw [State.setPort_port_self]; exact up

theorem huntByte (h : Moves c g s t) (z : c.sends = true) (p : Port) (b : RxByte) (up : (t.port p).link = .up) :
    Moves c g s (huntByte p b t) := by
  unfold Machine.huntByte
  split
  · exact h
  · split
    · exact h.rejectFrame z _
    · exact h.port p _ (.up z up (le_max_right _ _))

theorem receiveByte (h : Moves c g s t) (z : c.sends = true) (p : Port) (b : RxByte) : Moves c g s (receiveByte p b t) := by
  unfold Machine.receiveByte
  split
  · exact h
  · rename_i up _; exact h.huntByte z _ _ up
  · rename_i up _; exact h.frameByte z _ _ _ up

theorem receiveBytes (h : Moves c g s t) (z : c.sends = true) (p : Port) (bytes : List RxByte) : Moves c g s (receiveBytes p bytes t) :=
  Moves.foldl _ (fun _ b h => .quiet z _ (h.begin.receiveByte z p b)) _ h

theorem frameOver (h : Moves c g s t) (z : c.sends = true) (p : Port) : Moves c g s (frameOver p t) := by
  unfold Machine.frameOver
  split
  · exact h.rejectFrame z _
  · exact h

theorem raiseLink (h : Moves c g s t) (z : c.sends = true) (p : Port) : Moves c g s (raiseLink p t) := by
  unfold Machine.raiseLink
  split
  · refine Moves.sendNotices (h.port p _ (.up z ?_ ?_)) z _ _
    · rfl
    · exact le_max_right _ _
  · exact h

theorem breakEffect (h : Moves c g s t) (k : c.blocks = true) (p : Port) : Moves c g s (breakEffect p t) := by
  unfold Machine.breakEffect
  split
  · exact h
  · split
    · exact h.lineFault _ _
    · exact h
    · exact h
  · exact h.belt _ k le_rfl

theorem relatch (h : Moves c g s t) (p : Port) : Moves c g s (relatch p t) :=
  Moves.foldl _ (fun _ _ h => by split <;> [exact h; exact h.raiseCond _ _]) _ h

theorem breakLink (h : Moves c g s t) (k : c.blocks = true) (z : c.sends = true) (p : Port) : Moves c g s (breakLink p t) := by
  unfold Machine.breakLink
  split
  · exact (Moves.breakEffect (h.port p _ (.off z _ _)) k p).relatch p
  · exact h

/-! ### The web -/

theorem askWithheld (h : Moves c g s t) (a : Actuator) : Moves c g s (askWithheld a t) := by
  unfold Machine.askWithheld
  split
  · exact h
  · exact h.askGuardPlan
  · exact h.askPlan

theorem fallDue (h : Moves c g s t) (f : Firing) (l : Int) : Moves c g s (fallDue f l t) := by
  have q : Moves c g s (t.setQueue (t.firing.queue.filter fun g => g ≠ f)) :=
    h.setQueue _ (le_max_of_le_right (List.length_filter_le _ _))
  unfold Machine.fallDue; dsimp only
  split
  · exact (q.takeDue _ _ _).askWithheld _
  · exact q.takeDue _ _ _

theorem passGate (h : Moves c g s t) (id : Nat) : Moves c g s (passGate id t) := (h.updateSheet _ _).askDump

theorem markStop (h : Moves c g s t) : Moves c g s (markStop t) := h.line _ (.same rfl rfl rfl rfl rfl rfl rfl)

theorem takeTravel (h : Moves c g s t) : Moves c g s (takeTravel t) := (h.lineFault _ _).markStop

theorem takeWatch (h : Moves c true s t) (k : c.blocks = true) (z : c.sends = true) (w : Watch) : Moves c true s (takeWatch t w) := by
  cases w <;> unfold Machine.takeWatch <;> dsimp only
  · split
    · split
      · exact .event z _ (h.begin.closeRow k _)
      · exact h
    · exact h
  · split
    · split
      · exact .event z _ (h.begin.fallDue _ _)
      · exact h
    · exact h
  · split
    · split
      · exact .event z _ (h.begin.passGate _)
      · exact h
    · exact h
  · split
    · split
      · exact .event z _ (h.begin.retireWaste _)
      · exact h
    · exact h
  · split
    · split
      · exact .event z _ (h.begin.retireLost _)
      · exact h
    · exact h
  · split
    · exact .event z _ h.begin.takeTravel
    · exact h

theorem stepWeb (h : Moves c true s t) (k : c.blocks = true) (z : c.sends = true) (d : Direction) (hc : c.cmd = some (.encoderStep d)) :
    Moves c true s (stepWeb d t) := by
  have m : Moves c true s (movePosition d t) := h.web _ k (.inr ⟨d, hc⟩) (le_max_right _ _)
  unfold Machine.stepWeb; dsimp only
  split
  · exact m
  · exact .inFreeOrder _ (fun _ _ h => h.takeWatch k z _) _ m

theorem sampleSpeed (h : Moves c g s t) (k : c.blocks = true) : Moves c g s (sampleSpeed t) := by
  have w : Moves c g s (t.setWeb (updateSpeed t.web)) := h.web _ k (.inl rfl) (le_max_of_le_left (speedOf_le _))
  unfold Machine.sampleSpeed; dsimp only
  split
  · exact w.raiseCond _ _
  · exact w

theorem retime (h : Moves c g s t) : Moves c g s (retime t) := h.setQueue _ (by simp)

theorem updateFirings (h : Moves c g s t) : Moves c g s (updateFirings t) :=
  Moves.foldl _ (fun _ _ h => h.fallDue _ _) _ h.retime

theorem takePart (h : Moves c g s t) (k : c.blocks = true) (z : c.sends = true) (x : SpeedPart) : Moves c g s (takePart t x) := by
  cases x
  · exact .event z _ h.begin.updateFirings
  · exact .event z _ h.begin.examObligation.evalAccBlocked
  · exact .event z _ h.begin.evalHunting
  · exact .event z _ (h.begin.updateTravel k)

theorem updateSpeeds (h : Moves c g s t) (k : c.blocks = true) (z : c.sends = true) : Moves c g s (updateSpeeds t) := by
  have q : Moves c g s (Machine.quiet Machine.sampleSpeed t) := .quiet z _ (h.begin.sampleSpeed k)
  unfold Machine.updateSpeeds; dsimp only
  split
  · exact q
  · exact .inFreeOrder _ (fun _ _ h => h.takePart k z _) _ q

theorem readBar (h : Moves c true s t) (k : c.blocks = true) (z : c.sends = true) (l : Lane) (p : Pos) (x : Cells) (b : Bool) :
    Moves c true s (readBar l p x b t) := by
  unfold Machine.readBar
  split
  · exact h
  · split
    · exact .event z _ (h.begin.takeBar k _ _ _ _)
    · exact h

/-! ### The accumulator -/

theorem plainOpt (h : Moves c g s t) (n : Option Nat) (f : SetRec → SetRec) (hn : ∀ r, (f r).number = r.number)
    (hd : ∀ r, SameDeclared r (f r)) (hc : ∀ r, (f r).cause = r.cause) : Moves c g s (updateSetOpt n f t) := by
  cases n
  · exact h
  · exact h.plain _ _ hn hd hc

theorem countPage (h : Moves c g s t) (e : SheetEntry) : Moves c g s (countPage e t) := by
  unfold Machine.countPage
  split
  · refine h.plainOpt _ _ ?_ ?_ ?_
    · exact fun _ => rfl
    · exact fun _ => ⟨rfl, rfl, rfl, rfl, rfl⟩
    · exact fun _ => rfl
  · exact h

theorem markSkew (h : Moves c g s t) (e : SheetEntry) : Moves c g s (markSkew e t) := by
  unfold Machine.markSkew
  split
  · refine h.plainOpt _ _ ?_ ?_ ?_
    · exact fun _ => rfl
    · exact fun _ => ⟨rfl, rfl, rfl, rfl, rfl⟩
    · exact fun _ => rfl
  · exact h

/-- An update of the accumulator that does not begin a release and leaves the obligation. -/
theorem bin (h : Moves c g s t) (x : Accumulator) (o : x.obligation = t.acc.obligation) (r : x.state ≠ .releasing) :
    Moves c g s (t.setAcc x) := h.acc x o fun e => absurd e r

theorem checkComplete (h : Moves c g s t) : Moves c g s (checkComplete t) := by
  unfold Machine.checkComplete
  split
  · split
    · refine Moves.runSteps (Moves.putSetState (h.bin _ ?_ ?_) _ _)
      · exact rfl
      · exact fun x => by cases x
    · exact h
  · exact h

theorem openBin (h : Moves c g s t) (n : Option Nat) : Moves c g s (openBin n t) := by
  refine h.bin _ ?_ ?_
  · exact rfl
  · exact fun x => by cases x

theorem countSheetIn (h : Moves c g s t) : Moves c g s (countSheetIn t) := h.acc _ rfl id

theorem lieForeign (h : Moves c g s t) (n : Option Nat) : Moves c g s (lieForeign n t) := by
  cases n <;> exact h.acc _ rfl id

theorem collide (h : Moves c g s t) (e : SheetEntry) : Moves c g s (collide e t) :=
  (((h.lieForeign _).recordCauseOpt _ _).recordCauseOpt _ _).lineFault _ _

theorem matchArrival (h : Moves c g s t) (e : SheetEntry) : Moves c g s (matchArrival e t) := by
  have a : Moves c g s (Machine.markSkew e (Machine.countPage e (Machine.evalTrackFull (Machine.removeSheet e.id t)))) :=
    ((h.removeSheet _).evalTrackFull.countPage _).markSkew _
  unfold Machine.matchArrival; dsimp only
  split
  · exact (a.openBin _).checkComplete
  · exact (a.recordCauseOpt _ _).testDivertedOpt _
  all_goals
    split
    · exact a.countSheetIn.checkComplete
    · exact a.collide _

theorem strayArrival (h : Moves c g s t) : Moves c g s (strayArrival t) := by
  have a : Moves c g s (Machine.lineFault .straySheet t.acc.held t) := h.lineFault _ _
  unfold Machine.strayArrival; dsimp only
  split
  · exact a.openBin _
  · exact a
  all_goals exact (a.lieForeign _).recordCauseOpt _ _

theorem takeArrival (h : Moves c g s t) : Moves c g s (takeArrival t) := by
  refine Moves.evalAccBlocked (Moves.examObligation (Moves.examStack ?_))
  split
  · exact h.matchArrival _
  · exact h.strayArrival

theorem expireHold (h : Moves c g s t) : Moves c g s (expireHold t) := by
  have a : Moves c g s (t.setAcc { t.acc with holdTimer := none }) := h.acc _ rfl id
  unfold Machine.expireHold
  split
  · exact h
  · dsimp only
    split
    · split
      · exact a.recordCause _ _ _
      · exact a
    · exact a

theorem expireRelease (h : Moves c g s t) : Moves c g s (expireRelease t) := by
  have a : Moves c g s (t.setAcc { t.acc with releaseTimeout := none }) := h.acc _ rfl id
  unfold Machine.expireRelease
  split
  · exact h
  · exact (a.recordCauseOpt _ _).lineFault _ _

theorem afterEmpty (h : Moves c g s t) : Moves c g s (afterEmpty t) := (h.setObligation _).evalAccBlocked

theorem emptyBin (h : Moves c g s t) : Moves c g s (emptyBin t) :=
  Moves.afterEmpty (h.bin t.acc.emptied rfl fun x => by cases x)

theorem endDump (h : Moves c g s t) : Moves c g s (endDump t) := by
  unfold Machine.endDump
  split
  · exact Moves.foldl _ (fun _ _ h => h.testDiverted _) _ h.emptyBin
  all_goals exact h

theorem expireDump (h : Moves c g s t) : Moves c g s (expireDump t) := by
  have a : Moves c g s (t.setAcc { t.acc with dumpTimeout := none }) := h.acc _ rfl id
  unfold Machine.expireDump
  split
  · exact h
  · exact a.lineFault _ _

theorem passJog (h : Moves c g s t) : Moves c g s (passJog t) := by
  unfold Machine.passJog
  split
  · split
    · exact (h.updateSet _ _ (.pass c _)).runSteps
    · exact h
  · exact h

theorem restartInterval (h : Moves c g s t) : Moves c g s (restartInterval t) := by
  unfold Machine.restartInterval
  split
  all_goals exact h.acc _ rfl id

theorem squareUp (h : Moves c g s t) (k : Stroke) : Moves c g s (squareUp k t) := by
  unfold Machine.squareUp
  split
  · refine h.plainOpt _ _ ?_ ?_ ?_
    · exact fun _ => rfl
    · exact fun _ => ⟨rfl, rfl, rfl, rfl, rfl⟩
    · exact fun _ => rfl
  · exact h

theorem passStep (h : Moves c g s t) (k : Stroke) : Moves c g s (passStep k t) := by
  unfold Machine.passStep
  split
  · exact h.passJog
  · exact h

theorem jogDone (h : Moves c g s t) : Moves c g s (jogDone t) := by
  have a : Moves c g s (t.setAcc { t.acc with stroke := none, jogTimeout := none }) := h.acc _ rfl id
  unfold Machine.jogDone
  split
  · rename_i k _
    exact (((a.restartInterval.setObligation _).squareUp k).passStep k).examStack
  · exact h

theorem expireJog (h : Moves c g s t) : Moves c g s (expireJog t) := by
  have a : Moves c g s (t.setAcc { t.acc with jogTimeout := none }) := h.acc _ rfl id
  unfold Machine.expireJog
  split
  · exact h
  · exact a.lineFault _ _

theorem expireInterval (h : Moves c g s t) : Moves c g s (expireInterval t) := by
  have a : Moves c g s (t.setAcc { t.acc with jogInterval := none }) := h.acc _ rfl id
  unfold Machine.expireInterval
  split
  · exact h
  · exact a.restartInterval.setObligation _

/-! ### The folder and the belt -/

theorem endRelease (h : Moves c g s t) (k : c.blocks = true) (n : Nat) (f : Folder) (r : t.acc.state = .releasing)
    (i : t.folder.state = .idle) (j : f.state ≠ .idle) : Moves c g s (endRelease n f t) := by
  unfold Machine.endRelease
  split
  · have e : Moves c g s ((t.setAcc t.acc.emptied).setFolder f) :=
      h.tail (.enter t t.acc.emptied f k rfl r (fun x => by cases x) i j)
    exact e.afterEmpty
  · dsimp only
    refine Moves.examDump (Moves.evalAccBlocked (h.tail (.enter _ _ _ k ?_ r ?_ i j)))
    · exact rfl
    · exact fun x => by cases x

theorem enterFolder (h : Moves c g s t) (k : c.blocks = true) : Moves c g s (enterFolder t) := by
  unfold Machine.enterFolder
  split
  · rename_i i r _
    exact h.endRelease k _ _ r i (fun x => by cases x)
  · exact h.lineFault _ _

theorem leaveFolder (h : Moves c g s t) (k : c.blocks = true) : Moves c g s (leaveFolder t) := by
  unfold Machine.leaveFolder
  split
  · rename_i n _ e
    exact ((h.joinBelt k n _ (by rw [e]; rfl) rfl).withTally _).examHandOver
  · rename_i n _ e
    exact h.joinBelt k n _ (by rw [e]; rfl) rfl
  · exact h.lineFault _ _

theorem expireFold (h : Moves c g s t) (k : c.blocks = true) : Moves c g s (expireFold t) := by
  unfold Machine.expireFold
  split
  · refine Moves.lineFault (Moves.recordCause (h.folder _ (.inr ⟨?_, ?_⟩) (.inl k)) _ _ _) _ _
    · exact rfl
    · exact fun x => by cases x
  · exact h

theorem reachEnd (h : Moves c g s t) (k : c.blocks = true) : Moves c g s (reachEnd t) := by
  unfold Machine.reachEnd
  split
  · exact h.lineFault _ _
  · split
    · exact h.lineFault _ _
    · refine Moves.routeHead (k := k) (h.belt _ k ?_) _
      exact le_rfl

theorem expireTravel (h : Moves c g s t) (k : c.blocks = true) : Moves c g s (expireTravel t) := by
  unfold Machine.expireTravel
  split
  · exact h
  · refine Moves.lineFault (h.belt _ k ?_) _ _
    exact le_rfl

theorem endGate (h : Moves c g s t) (k : c.blocks = true) : Moves c g s (endGate t) := by
  unfold Machine.endGate
  split
  · refine Moves.examHandOver (Moves.testDivertedOpt (Moves.leaveBelt (k := k) (h.belt _ k ?_)) _)
    exact le_rfl
  · exact h

theorem expireGate (h : Moves c g s t) (k : c.blocks = true) : Moves c g s (expireGate t) := by
  unfold Machine.expireGate
  split
  · exact h
  · refine Moves.lineFault (h.belt _ k ?_) _ _
    exact le_rfl

theorem expireOffer (h : Moves c g s t) (k : c.blocks = true) : Moves c g s (expireOffer t) := by
  unfold Machine.expireOffer
  split
  · exact (((h.endOffer k).recordCause _ _ _).raiseCond _ _).wantBeltGate k
  · exact h

/-! ### The line -/

theorem setGuard (h : Moves c g s t) (x : Guard) (ok : t.line.state = .running → x = .closed) :
    Moves c g s (t.setGuard x) := by
  refine h.line _ ⟨fun o => ⟨?_, o.recordEmpty, o.recordHeld, o.sweeping⟩, fun x y => absurd x y,
    fun x y => absurd y x, fun _ _ => .inl ⟨rfl, rfl⟩, rfl, id, .inl ⟨rfl, rfl⟩⟩
  exact ok

theorem openGuard (h : Moves c g s t) : Moves c g s (openGuard t) := by
  unfold Machine.openGuard
  split
  · exact (h.lineFault _ _).setGuard _ fun x => by rw [lineFault_faulted] at x; cases x
  · rename_i no
    exact h.setGuard _ fun x => absurd x (by simpa using no)
  · exact h

theorem closeGuard (h : Moves c g s t) (k : c.blocks = true) : Moves c g s (closeGuard t) := by
  unfold Machine.closeGuard
  split
  · exact ((h.setGuard _ fun _ => rfl).examBeltGate k).examStack.examObligation
  · exact h

theorem warmStart (h : Moves c g s t) (k : c.blocks = true) (z : c.sends = true) (x : Guard)
    (hc : ∃ a b, c.cmd = some (.powerUp a b)) : Moves c g s (warmStart x t) := by
  have l : Moves c g s (t.setLinks t.links.poweredUp) := h.links _ fun p => by cases p <;> exact .off z _ _
  have b : Moves c g s (unready (Machine.abandonMachine (t.setLinks t.links.poweredUp))) := (l.abandonMachine k).belt _ k le_rfl
  have f : Moves c g s (gateToWaste (unready (Machine.abandonMachine (t.setLinks t.links.poweredUp)))) :=
    b.firing _ (le_max_right _ _)
  refine Moves.raiseCond (Moves.line (f.web _ k ?_ ?_) _ ?_) _ _
  · exact .inl rfl
  · exact Nat.zero_le _
  · refine ⟨fun _ => ⟨?_, ?_, ?_, ?_⟩, ?_, ?_, fun _ _ => .inr hc, rfl, ?_, .inl ⟨rfl, rfl⟩⟩
    · exact fun x => by cases x
    · exact fun x => absurd rfl x
    · exact fun _ => rfl
    · exact fun _ => rfl
    · exact fun _ x => absurd rfl x
    · exact fun _ x => by cases x
    · exact fun x => by cases x

theorem powerOn (h : Moves c g s t) (k : c.blocks = true) (z : c.sends = true) (retain closed : Bool) (hc : c.cmd = some (.powerUp retain closed)) :
    Moves c g s (powerOn retain closed t) := by
  unfold Machine.powerOn
  split
  · exact h.warmStart k z _ ⟨_, _, hc⟩
  · rename_i cold
    exact h.tail (.cold _ retain closed _ hc (by simpa using cold))

theorem clearAllConds (h : Moves c g s t) : Moves c g s (clearAllConds t) :=
  h.links _ fun p => by cases p <;> exact .conds _ _

theorem endSweep (h : Moves c g s t) (x : Guard) : Moves c g s (endSweep x t) := by
  unfold Machine.endSweep
  split
  · rename_i on
    refine Moves.raiseCond (h.clearAllConds.line _ ⟨fun o => ⟨?_, ?_, ?_, ?_⟩, ?_, ?_, ?_, ?_, ?_, ?_⟩) _ _
    · intro r
      have f : t.line.state = .faulted := o.sweeping on
      have r' : t.line.state = .running := r
      rw [f] at r'; cases r'
    · exact o.recordEmpty
    · exact o.recordHeld
    · exact fun x => by cases x
    · exact fun x y => absurd x y
    · exact fun x y => absurd y x
    · exact fun _ _ => .inl ⟨rfl, rfl⟩
    · rfl
    · exact fun x => by cases x
    · exact .inl ⟨rfl, rfl⟩
  · exact h

end Moves

end Sys2Proof.Machine
end

