-- ==== Sys2Proof/Laws/Steps.lean ====
section
/-! SUPPORT. Every command and every step is a sequence of moves. A property that every move keeps is therefore kept by
every step: show it for one move, then use `Moves.keeps`. -/

namespace Sys2Proof.Machine

variable {s t : State}

/-- A command is a sequence of moves. -/
theorem exec_moves (c : Instr) (h : exec c s = .next t) : Moves (.of c) true s t := by
  have k : ∀ {u : State}, exec c s = .next u → Moves (.of c) true s u → Moves (.of c) true s t := by
    intro u e m
    rw [h] at e
    cases e
    exact m
  have z : Moves (.of c) true s s := .here s
  cases c with
  | loadProfile => exact k rfl (z.takeRequest rfl _ _ _ fun _ b h _ => h.loadProfileRule rfl rfl b)
  | loadSet => exact k rfl (z.takeRequest rfl _ _ _ fun _ b h _ => h.loadSetRule rfl b)
  | amendSet => exact k rfl (z.takeRequest rfl _ _ _ fun _ b h _ => h.amendSetRule rfl b)
  | cancelSet => exact k rfl (z.takeRequest rfl _ _ _ fun _ b h _ => h.cancelSetRule b)
  | releaseSet => exact k rfl (z.takeRequest rfl _ _ _ fun _ b h _ => h.releaseSetRule b)
  | querySet => exact k rfl (z.takeRequest rfl _ _ _ fun _ b h _ => h.querySetRule b)
  | takeCompletion => exact k rfl (z.takeRequest rfl _ _ _ fun _ b h _ => h.takeCompletionRule rfl b)
  | takeReprint => exact k rfl (z.takeRequest rfl _ _ _ fun _ b h _ => h.takeReprintRule rfl b)
  | loadGeometry => exact k rfl (z.takeRequest rfl _ _ _ fun _ b h _ => h.loadGeometryRule rfl b)
  | start => exact k rfl (z.takeRequest rfl _ _ _ fun _ b h o => h.startRule rfl rfl (o.elim id fun x => by cases x) b)
  | stop => exact k rfl (z.takeRequest rfl _ _ _ fun _ b h o => h.stopRule (o.elim id fun x => by cases x) b)
  | purge => exact k rfl (z.takeRequest rfl _ _ _ fun _ b h o => h.purgeRule rfl rfl (o.elim id fun x => by cases x) b)
  | resetLine => exact k rfl (z.takeRequest rfl _ _ _ fun _ b h _ => h.resetLineRule rfl b)
  | clearCapture => exact k rfl (z.takeRequest rfl _ _ _ fun _ b h _ => h.clearCaptureRule rfl b)
  | clearTally => exact k rfl (z.takeRequest rfl _ _ _ fun _ b h _ => h.clearTallyRule b)
  | setReady => exact k rfl (z.takeRequest rfl _ _ _ fun _ b h _ => h.setReadyRule rfl b)
  | setNotReady => exact k rfl (z.takeRequest rfl _ _ _ fun _ b h _ => h.setNotReadyRule rfl b)
  | accept => exact k rfl (z.takeRequest rfl _ _ _ fun _ b h _ => h.acceptRule rfl b)
  | refuse => exact k rfl (z.takeRequest rfl _ _ _ fun _ b h _ => h.refuseRule rfl b)
  | readStatus p => exact k rfl (z.takeRequest rfl _ _ _ fun _ b h _ => h.readStatusRule p b)
  | readTally p => exact k rfl (z.takeRequest rfl _ _ _ fun _ b h _ => h.readTallyRule b)
  | readCapture p => exact k rfl (z.takeRequest rfl _ _ _ fun _ b h _ => h.readCaptureRule b)
  | clearCondition p => exact k rfl (z.takeRequest rfl _ _ _ fun _ b h _ => h.clearConditionRule p b)
  | undefinedRequestKind p => exact k rfl (z.takeUndefined rfl p)
  | goodFrame p bytes => exact k rfl (z.receiveBytes rfl p bytes)
  | frameTimeout p => exact k rfl (.quiet rfl _ (z.begin.frameOver rfl p))
  | linkUp p => exact k rfl (.quiet rfl _ (z.begin.raiseLink rfl p))
  | linkBreak p => exact k rfl (.quiet rfl _ (z.begin.breakLink rfl rfl p))
  | encoderStep d => exact k rfl (z.stepWeb rfl rfl d rfl)
  | speedUpdate => exact k rfl (z.updateSpeeds rfl rfl)
  | barEvent lane pos x truncated => exact k rfl (z.readBar rfl rfl lane pos x truncated)
  | arrival => exact k rfl (Moves.input rfl _ z fun _ h _ => h.takeArrival)
  | holdTimerExpiry => exact k rfl (.event rfl _ z.begin.expireHold)
  | handOver => exact k rfl (.event rfl _ z.begin.examHandOver)
  | releaseTimeout => exact k rfl (.event rfl _ z.begin.expireRelease)
  | dumpStart => exact k rfl (.event rfl _ z.begin.examDump)
  | dumpDone => exact k rfl (Moves.input rfl _ z fun _ h _ => h.endDump)
  | dumpTimeout => exact k rfl (.event rfl _ z.begin.expireDump)
  | jogStrokeStart => exact k rfl (.event rfl _ z.begin.examSquaring.examObligation)
  | jogDone => exact k rfl (Moves.input rfl _ z fun _ h _ => h.jogDone)
  | jogTimeout => exact k rfl (.event rfl _ z.begin.expireJog)
  | jogIntervalExpiry => exact k rfl (.event rfl _ z.begin.expireInterval)
  | folderEntry => exact k rfl (Moves.input rfl _ z fun _ h _ => h.enterFolder rfl)
  | foldExit => exact k rfl (Moves.input rfl _ z fun _ h _ => h.leaveFolder rfl)
  | foldTimerExpiry => exact k rfl (.event rfl _ (z.begin.expireFold rfl))
  | beltEnd => exact k rfl (Moves.input rfl _ z fun _ h _ => h.reachEnd rfl)
  | beltTravelExpiry => exact k rfl (.event rfl _ (z.begin.expireTravel rfl))
  | beltGateStroke => exact k rfl (.event rfl _ (z.begin.examBeltGate rfl))
  | beltGateDone => exact k rfl (Moves.input rfl _ z fun _ h _ => h.endGate rfl)
  | beltGateTimeout => exact k rfl (.event rfl _ (z.begin.expireGate rfl))
  | offerTimerExpiry => exact k rfl (.event rfl _ (z.begin.expireOffer rfl))
  | guardOpen => exact k rfl (Moves.input rfl _ z fun _ h _ => h.openGuard)
  | guardClose => exact k rfl (Moves.input rfl _ z fun _ h _ => h.closeGuard rfl)
  | powerUp retain closed => exact k rfl (.quiet rfl _ (z.begin.powerOn rfl rfl retain closed rfl))
  | sweepComplete closed => exact k rfl (.quiet rfl _ (z.begin.endSweep _))

/-! ### The step without a command -/

theorem PortMove.tick (a : PortState) : PortMove .idling a a.tick := by
  have q : a.tick.queue = a.queue ∧ a.tick.link = a.link ∧ a.tick.tx.length ≤ a.tx.length := by
    unfold PortState.tick PortState.tickTx PortState.sentByte
    split
    · exact ⟨rfl, rfl, le_rfl⟩
    · dsimp only
      split
      · exact ⟨rfl, rfl, le_rfl⟩
      · split
        · exact ⟨rfl, rfl, le_rfl⟩
        · exact ⟨rfl, rfl, by simp⟩
  have r : a.rx = none → a.tick.rx = none := by
    intro e
    unfold PortState.tick
    have : ∀ b : PortState, b = a.tickTx → ({ b with rx := a.rx.map RxFrame.tick } : PortState).rx = none := by
      intro b _; rw [e]; rfl
    exact this _ rfl
  exact ⟨fun d => .inr ⟨by rw [← q.2.1]; exact d, by rw [q.1], r, q.2.2⟩, by rw [q.1]; exact le_max_right _ _, .inl rfl⟩

theorem Supervisor.tick_same {c : During} (l : Supervisor) (a b : Bool) : LineMove c l (l.tick a b) := by
  cases a <;> cases b <;> simp only [Supervisor.tick, Supervisor.tickRun, Supervisor.tickHold] <;>
    (repeat' split) <;> exact .same rfl rfl rfl rfl rfl rfl rfl

theorem ticked_moves (s : State) : Moves .idling true s s.ticked := by
  have l : Moves .idling true s (s.setLinks
      { job := s.links.job.tick, line := s.links.line.tick, delivery := s.links.delivery.tick }) :=
    (Moves.here s).links _ fun p => by cases p <;> exact .tick _
  have w := l.web { s.web with toUpdate := s.web.toUpdate - 1 } rfl (.inl rfl) (le_max_right _ _)
  have a := w.acc s.acc.tick rfl id
  have f := a.folder { s.folder with timer := tickTimer s.folder.timer } (.inr ⟨rfl, id⟩) (.inl rfl)
  have b := f.belt s.belt.tick rfl le_rfl
  exact b.line (s.line.tick s.permit s.holdLine) (Supervisor.tick_same _ _ _)

theorem schedule_moves (h : Moves .idling true s t) (cs : List Instr) : Moves .idling true s (schedule cs t) := by
  unfold schedule
  split
  · exact h.tail (.pending _ _ rfl)
  · exact h.tail (.pending _ _ rfl)
  · exact h.drawn.tail (.pending _ _ rfl)

theorem idle_moves (s : State) : Moves .idling true s (idle s) := by
  unfold idle
  split
  · exact schedule_moves (ticked_moves s) _
  · exact schedule_moves (.here s) _

/-! ### What every step keeps -/

/-- A property that every move keeps is kept by every sequence of moves. -/
theorem Moves.keeps {c : During} {g : Bool} {P : State → Prop} (step : ∀ u v, Move c g u v → P u → P v)
    (h : Moves c g s t) (p : P s) : P t := by
  induction h with
  | refl => exact p
  | tail _ m ih => exact step _ _ m ih

/-- A property of the blocks that every move keeps is kept by every step. -/
theorem step_keeps {P : State → Prop} (move : ∀ c u v, Move c true u v → P u → P v)
    (queue : ∀ u q, P u → P { u with pending := q }) (h : step s = .next t) (p : P s) : P t := by
  unfold step at h
  split at h
  · cases h
    exact (idle_moves s).keeps (move _) p
  · exact (exec_moves _ h).keeps (move _) (queue _ _ p)

end Sys2Proof.Machine
end

