-- ==== Sys2Proof/Laws/Frames.lean ====
section
/-! SUPPORT. What sequences of moves leave as it was: what the shared operations never change, and what a request's rule
never changes of the ports. -/

namespace Sys2Proof.Machine

variable {c : During} {g : Bool} {s t : State}

/-! ### The shared operations -/

theorem Move.inner_blocks {u v : State} (m : Move .inner g u v) :
    v.web = u.web ∧ v.reader = u.reader ∧ v.belt = u.belt ∧ v.folder = { u.folder with handed := v.folder.handed } := by
  cases m with
  | web _ k => cases k
  | reader _ k => cases k
  | belt _ k => cases k
  | enter _ _ k => cases k
  | exit _ _ k => cases k
  | emptied k => cases k
  | cold _ _ _ h => cases h
  | folder x h k =>
    rcases k with k | k
    · cases k
    · exact ⟨rfl, rfl, rfl, k⟩
  | _ => exact ⟨rfl, rfl, rfl, rfl⟩

/-- The shared operations change neither the web nor the reader nor the belt, and of the folder only the last handed-over
set. -/
theorem Moves.inner_blocks (h : Moves .inner g s t) :
    t.web = s.web ∧ t.reader = s.reader ∧ t.belt = s.belt ∧ t.folder = { s.folder with handed := t.folder.handed } := by
  induction h with
  | refl => exact ⟨rfl, rfl, rfl, rfl⟩
  | tail _ m ih =>
    obtain ⟨a, b, d, e⟩ := ih
    obtain ⟨a', b', d', e'⟩ := m.inner_blocks
    refine ⟨a'.trans a, b'.trans b, d'.trans d, ?_⟩
    rw [e', e]

theorem Moves.inner_web (h : Moves .inner g s t) : t.web = s.web := h.inner_blocks.1
theorem Moves.inner_reader (h : Moves .inner g s t) : t.reader = s.reader := h.inner_blocks.2.1
theorem Moves.inner_belt (h : Moves .inner g s t) : t.belt = s.belt := h.inner_blocks.2.2.1
theorem Moves.inner_folder (h : Moves .inner g s t) : t.folder = { s.folder with handed := t.folder.handed } :=
  h.inner_blocks.2.2.2

/-! ### The ports -/

theorem Move.quiet_ports {u v : State} (m : Move c g u v) (k : c.sends = false) (nc : ∀ a b, c.cmd ≠ some (.powerUp a b))
    (p : Port) : v.port p = { u.port p with conds := (v.port p).conds } := by
  cases m with
  | links x h =>
    rcases (h p).quiet with q | q
    · rw [k] at q; cases q
    · exact q
  | cold _ _ _ h => exact absurd h (nc _ _)
  | _ => rfl

/-- What does not send changes of a port only its pending conditions. -/
theorem Moves.quiet_ports (h : Moves c g s t) (k : c.sends = false) (nc : ∀ a b, c.cmd ≠ some (.powerUp a b)) (p : Port) :
    t.port p = { s.port p with conds := (t.port p).conds } := by
  induction h with
  | refl => rfl
  | tail _ m ih => rw [m.quiet_ports k nc p, ih]

/-! ### The queue of commands and the free orders -/

theorem Move.pending_of {u v : State} (m : Move c g u v) (k : c.idle = false) : v.pending = u.pending := by
  cases m with
  | pending _ h => rw [k] at h; cases h
  | _ => rfl

/-- A command leaves the queue of commands as it is. -/
theorem Moves.pending_of (h : Moves c g s t) (k : c.idle = false) : t.pending = s.pending := by
  induction h with
  | refl => rfl
  | tail _ m ih => exact (m.pending_of k).trans ih

/-- A command leaves the queue of commands as it is. -/
theorem exec_pending (c : Instr) (h : exec c s = .next t) : t.pending = s.pending := (exec_moves c h).pending_of rfl

end Sys2Proof.Machine
end

