-- ==== Sys2Proof/Laws/Answers.lean ====
section
/-! SUPPORT. Said once: how an event ends, and how a request is taken and answered. -/

namespace Sys2Proof.Machine

variable {s t : State}

/-! ### Nothing left to do -/

/-- An event that asked for nothing settles as it stands. -/
theorem settle_idle (e : s.ev.ended = []) (r : s.ev.planWanted = false) (d : s.ev.dumpExam = false)
    (a : s.ev.awaitExam = false) : settle s = s := by
  have p : replan s = s := replan_idle r
  have x : examAsked s = s := by unfold examAsked examDumpIf; simp [a, d]
  unfold settle
  rw [p, x]
  unfold flushEnded
  rw [e]
  show s.setEv { s.ev with ended := [] } = s
  rw [← e]
  rfl

/-- No notice is due: nothing is sent. -/
theorem sendNotices_nothing (p : Port) (w : Cond → Bool) (s : State) (h : ∀ x ∈ (s.port p).conds, w x.cond = false) :
    sendNotices p w s = s := by
  unfold sendNotices
  split
  · rfl
  · have f : (s.port p).conds.filter (fun x => w x.cond) = [] := by
      rw [List.filter_eq_nil_iff]; intro x hx; simp [h x hx]
    rw [f]
    cases p <;> simp [State.setPort, State.port, Links.get, Links.put, State.setLinks]

/-- An event that raised nothing ends without a notice. -/
theorem flushNotices_idle (h : s.ev.raised = []) : flushNotices s = s := by
  unfold flushNotices
  simp only [h]
  rw [sendNotices_nothing .job _ s (by simp), sendNotices_nothing .line _ s (by simp),
    sendNotices_nothing .delivery _ s (by simp)]
  show s.setEv { s.ev with raised := [] } = s
  rw [← h]
  rfl

@[simp] theorem State.begin_ev (s : State) : s.begin.ev = Event.none := rfl

/-- A machine event whose rule asked for nothing is its rule. -/
theorem event_idle (rule : State → State) (h : (rule s.begin).ev = Event.none) : event rule s = rule s.begin := by
  unfold event
  rw [settle_idle (by rw [h]; rfl) (by rw [h]; rfl) (by rw [h]; rfl) (by rw [h]; rfl),
    flushNotices_idle (by rw [h]; rfl), ← h]
  rfl

/-- An event of no collection whose rule raised nothing is its rule. -/
theorem quiet_idle (rule : State → State) (h : (rule s.begin).ev = Event.none) : quiet rule s = rule s.begin := by
  unfold quiet
  rw [flushNotices_idle (by rw [h]; rfl), ← h]
  rfl

/-! ### Requests -/

/-- A request is answered on a port whose link is UP, and its event asked for nothing: the reply is produced. -/
theorem answer_idle (p : Port) (k : Byte) (r : Reply) (h : s.ev = Event.none) (up : (s.port p).link = .up) :
    answer p k r s = s.setPort p { s.port p with tx := (s.port p).tx ++ [replyFrame s p k r] } := by
  unfold answer
  have z : settle s = s := settle_idle (by rw [h]; rfl) (by rw [h]; rfl) (by rw [h]; rfl) (by rw [h]; rfl)
  have q : produce p (replyFrame s p k r) s = s.setPort p { s.port p with tx := (s.port p).tx ++ [replyFrame s p k r] } := by
    unfold produce; rw [up]
  simp only [z, q]
  rw [flushNotices_idle]
  · show (s.setPort p _).setEv Event.none = _
    rw [← h]; rfl
  · show s.ev.raised = []
    rw [h]; rfl

/-- A taken request of its port's kind, without the overrun mark and while no sweep runs (or READ STATUS), is decided by
its rule. -/
theorem takeRequest_taken {p : Port} {k : RequestKind} {r : Request} (rule : Rule) (take : s.takeable p = some r)
    (kind : requestKindOn p r.kind = some k) (whole : r.overrun = false) (open_ : s.line.sweep = false ∨ k = .readStatus) :
    takeRequest p k rule s =
      answer p r.kind (rule r.body (popRequest p s).begin).2 (rule r.body (popRequest p s).begin).1 := by
  unfold takeRequest decideRequest
  rw [take]
  dsimp only
  rw [if_pos kind, if_neg (by rw [whole]; decide), if_neg]
  rcases open_ with h | h
  · show ¬ ((s.line.sweep && _) = true)
    rw [h]; simp
  · rw [h]; simp

/-! ### What an answer does to the ports -/

theorem OnlyNotices.refl (a : PortState) : OnlyNotices a a := ⟨rfl, rfl, rfl, [], by simp, by simp⟩

theorem OnlyNotices.trans {a b d : PortState} (h : OnlyNotices a b) (k : OnlyNotices b d) : OnlyNotices a d := by
  obtain ⟨n, e, f⟩ := h.tx
  obtain ⟨n', e', f'⟩ := k.tx
  refine ⟨k.link.trans h.link, k.queue.trans h.queue, k.rx.trans h.rx, n ++ n', by rw [e', e, List.append_assoc], ?_⟩
  intro x hx
  rcases List.mem_append.mp hx with y | y
  · exact f x y
  · exact f' x y

theorem OnlyNotices.of_conds {a b : PortState} (h : b = { a with conds := b.conds }) : OnlyNotices a b := by
  rw [h]; exact ⟨rfl, rfl, rfl, [], by simp, by simp⟩

/-- Notices add frames of kind 81h and nothing else. -/
theorem sendNotices_port (p : Port) (w : Cond → Bool) (s : State) (q : Port) :
    OnlyNotices (s.port q) ((sendNotices p w s).port q) := by
  unfold sendNotices
  split
  · exact .refl _
  · by_cases h : q = p
    · subst h
      rw [State.setPort_port_self]
      refine ⟨rfl, rfl, rfl, _, rfl, ?_⟩
      intro f hf
      obtain ⟨x, _, e⟩ := List.mem_map.mp hf
      rw [← e]; rfl
    · rw [State.setPort_port_of_ne h]; exact .refl _

theorem flushNotices_port (s : State) (q : Port) : OnlyNotices (s.port q) ((flushNotices s).port q) :=
  ((sendNotices_port .job _ s q).trans (sendNotices_port .line _ _ q)).trans (sendNotices_port .delivery _ _ q)

@[simp] theorem topBytes_length (s : State) (p : Port) : (topBytes s p).length = 6 := by
  unfold topBytes
  split
  · rfl
  · simp only [condBytes, List.length_cons]
    have : ∀ x : PendingCond, (paramBytes s x).length = 5 := by
      intro x; unfold paramBytes; split <;> rfl
    rw [this]

/-- The port after a settled event keeps all but its pending conditions. -/
theorem settle_port (s : State) (q : Port) : (settle s).port q = { s.port q with conds := ((settle s).port q).conds } :=
  ((Moves.here s).settle (c := .inner) (g := false)).quiet_ports rfl nofun q

/-- A request whose rule left the ports as they were but for pending conditions is replied to. -/
theorem answer_replied {p : Port} {k : RequestKind} {body : List Byte} {s u : State} (r : Reply)
    (w : Waits p { kind := k.code, body := body, overrun := false } s)
    (h : ∀ q, u.port q = { (popRequest p s).begin.port q with conds := (u.port q).conds }) :
    Replied p k r.result r.data s (answer p k.code r u) := by
  have v : ∀ q, (settle u).port q = { (popRequest p s).begin.port q with conds := ((settle u).port q).conds } := by
    intro q; rw [settle_port, h q]
  have b : (popRequest p s).begin.port p = { s.port p with queue := (s.port p).queue.tail } :=
    State.setPort_port_self s p _
  have up : ((settle u).port p).link = .up := by rw [v p, b]; exact w.up
  have pr : produce p (replyFrame (settle u) p k.code r) (settle u) =
      (settle u).setPort p { (settle u).port p with
        tx := ((settle u).port p).tx ++ [replyFrame (settle u) p k.code r] } := by
    unfold produce; rw [up]
  have f := fun q => flushNotices_port (produce p (replyFrame (settle u) p k.code r) (settle u)) q
  have a : ∀ q, (answer p k.code r u).port q =
      (flushNotices (produce p (replyFrame (settle u) p k.code r) (settle u))).port q := fun q => rfl
  have fp := f p
  rw [← a p, pr, State.setPort_port_self] at fp
  obtain ⟨n, e, m⟩ := fp.tx
  refine ⟨?_, ?_, ?_, ⟨topBytes (settle u) p, n, ?_, topBytes_length _ _, m⟩, ?_⟩
  · rw [fp.link]; show ((settle u).port p).link = _; rw [v p, b]
  · rw [fp.queue]; show ((settle u).port p).queue = _; rw [v p, b]
  · rw [fp.rx]; show ((settle u).port p).rx = _; rw [v p, b]
  · rw [e]
    have : ((settle u).port p).tx = (s.port p).tx := by rw [v p, b]
    rw [this, List.append_assoc]; rfl
  · intro q hq
    have fq := f q
    rw [← a q, pr, State.setPort_port_of_ne hq] at fq
    refine OnlyNotices.trans (.of_conds ?_) fq
    rw [v q]
    have : (popRequest p s).begin.port q = s.port q := State.setPort_port_of_ne hq _ _
    rw [this]

/-- What a port asks for is taken by the command of its kind and decided by its rule. -/
theorem Asks.taken {p : Port} {k : RequestKind} {body : List Byte} {s : State} (rule : Rule) (h : Asks p k body s) :
    takeRequest p k rule s = answer p k.code (rule body (popRequest p s).begin).2 (rule body (popRequest p s).begin).1 := by
  have t : s.takeable p = some { kind := k.code, body := body, overrun := false } := by
    unfold State.takeable; rw [h.waits.sent]; exact h.waits.head
  have o : requestKindOn p k.code = some k := by
    have a := h.allowed
    revert a
    cases p <;> cases k <;> decide
  have z := takeRequest_taken rule t o rfl (.inl h.noSweep)
  exact z

/-- The top condition depends on the port's pending conditions and on the two counts. -/
theorem topBytes_congr {p : Port} {s u : State} (h : (u.port p).conds = (s.port p).conds)
    (c : u.table.completion = s.table.completion) (r : u.table.reprint = s.table.reprint) :
    topBytes u p = topBytes s p := by
  unfold topBytes
  rw [h]
  have : ∀ x, condBytes u x = condBytes s x := by
    intro x; unfold condBytes paramBytes; rw [c, r]
  split
  · rfl
  · exact this _

/-- A request whose rule touches neither the ports nor the two queues, and asks for nothing, is answered with nothing but
its reply. -/
theorem Asks.exact {p : Port} {k : RequestKind} {body : List Byte} {s u : State} {r : Reply} {rule : Rule}
    (h : Asks p k body s) (e : rule body (popRequest p s).begin = (u, r)) (v : u.ev = Event.none)
    (l : u.links = (popRequest p s).links) (c : u.table.completion = s.table.completion)
    (q : u.table.reprint = s.table.reprint) :
    takeRequest p k rule s = { u with links := (answered p k.code r.result r.data s).links } := by
  have b : u.port p = { s.port p with queue := (s.port p).queue.tail } := by
    show u.links.get p = _; rw [l]; exact State.setPort_port_self s p _
  rw [h.taken, e]
  dsimp only
  rw [answer_idle p k.code r v (by rw [b]; exact h.waits.up)]
  have t : topBytes u p = topBytes s p := topBytes_congr (by rw [b]) c q
  have x : ∀ (a : Links) (y z : PortState), (a.put p y).put p z = a.put p z := by
    intro a y z; cases p <;> rfl
  show { u with links := u.links.put p _ } = { u with links := s.links.put p _ }
  rw [b, l]
  unfold replyFrame
  rw [t]
  show { u with links := (s.links.put p _).put p _ } = _
  rw [x]

end Sys2Proof.Machine
end

