-- ==== Sys2Proof/Laws/Footprints.lean ====
section
/-! SUPPORT. One lemma for each shared operation: the parts of the state it may change. `SameExcept.comp` chains them, and
`h .web (by decide)` reads one unchanged part off. -/

namespace Sys2Proof.Machine

variable {s t u : State} {l m n : List Part}

theorem SameExcept.refl (s : State) : SameExcept l s s := fun x _ => by cases x <;> rfl

theorem SameExcept.mono (h : SameExcept l s t) (k : l ⊆ m := by decide) : SameExcept m s t :=
  fun x hx => h x fun y => hx (k y)

theorem SameExcept.comp (h : SameExcept l s t) (k : SameExcept m t u) (hl : l ⊆ n := by decide)
    (hm : m ⊆ n := by decide) : SameExcept n s u := by
  intro x hx
  have a := h x fun y => hx (hl y)
  have b := k x fun y => hx (hm y)
  cases x <;> exact b.trans a

/-! ### The updates of one block -/

theorem setLinks_same (x : Links) : SameExcept [.links] s (s.setLinks x) := fun y h => by
  cases y <;> first | rfl | exact absurd (by decide) h
theorem setPort_same (p : Port) (x : PortState) : SameExcept [.links] s (s.setPort p x) := setLinks_same _
theorem setWeb_same (x : WebUnit) : SameExcept [.web] s (s.setWeb x) := fun y h => by
  cases y <;> first | rfl | exact absurd (by decide) h
theorem setReader_same (x : MarkReader) : SameExcept [.reader] s (s.setReader x) := fun y h => by
  cases y <;> first | rfl | exact absurd (by decide) h
theorem setTable_same (x : SetTable) : SameExcept [.table] s (s.setTable x) := fun y h => by
  cases y <;> first | rfl | exact absurd (by decide) h
theorem setTrack_same (x : Tracking) : SameExcept [.track] s (s.setTrack x) := fun y h => by
  cases y <;> first | rfl | exact absurd (by decide) h
theorem setFiring_same (x : Scheduler) : SameExcept [.firing] s (s.setFiring x) := fun y h => by
  cases y <;> first | rfl | exact absurd (by decide) h
theorem setAcc_same (x : Accumulator) : SameExcept [.acc] s (s.setAcc x) := fun y h => by
  cases y <;> first | rfl | exact absurd (by decide) h
theorem setFolder_same (x : Folder) : SameExcept [.folder] s (s.setFolder x) := fun y h => by
  cases y <;> first | rfl | exact absurd (by decide) h
theorem setBelt_same (x : Delivery) : SameExcept [.belt] s (s.setBelt x) := fun y h => by
  cases y <;> first | rfl | exact absurd (by decide) h
theorem setLine_same (x : Supervisor) : SameExcept [.line] s (s.setLine x) := fun y h => by
  cases y <;> first | rfl | exact absurd (by decide) h
theorem setEv_same (x : Event) : SameExcept [.ev] s (s.setEv x) := fun y h => by
  cases y <;> first | rfl | exact absurd (by decide) h

/-! ### Flags -/

theorem raiseCond_same (k : Cond) (x : CondParam) (s : State) : SameExcept [.links, .ev] s (raiseCond k x s) := by
  unfold raiseCond; dsimp only
  split
  · exact (setPort_same _ _).mono
  · exact (setPort_same _ _).comp (setEv_same _)

theorem removeCond_same (k : Cond) (s : State) : SameExcept [.links] s (removeCond k s) := setPort_same _ _

theorem produce_same (p : Port) (f : TxFrame) (s : State) : SameExcept [.links] s (produce p f s) := by
  unfold produce; split
  · exact .refl _
  · exact setPort_same _ _

theorem sendNotices_same (p : Port) (w : Cond → Bool) (s : State) : SameExcept [.links] s (sendNotices p w s) := by
  unfold sendNotices; split
  · exact .refl _
  · exact setPort_same _ _

theorem flushNotices_same (s : State) : SameExcept [.links, .ev] s (flushNotices s) :=
  (((sendNotices_same .job _ s).comp (sendNotices_same .line _ _) : SameExcept [.links] _ _).comp
    (sendNotices_same .delivery _ _) : SameExcept [.links] _ _).comp (setEv_same _)

theorem setHold_same (k : HoldCause) (b : Bool) (s : State) : SameExcept [.links, .line, .ev] s (setHold k b s) := by
  unfold setHold; dsimp only
  split
  · exact .refl _
  · split
    · exact (setLine_same _).comp (raiseCond_same _ _ _)
    · exact (setLine_same _).mono
    · exact (setLine_same _).mono

theorem lineFault_same (k : LineCause) (n : Option Nat) (s : State) :
    SameExcept [.links, .line, .ev] s (lineFault k n s) := by
  unfold lineFault
  split
  · exact (setLine_same _).mono
  · exact (setLine_same _).comp (raiseCond_same _ _ _)
  · exact (setLine_same _).comp (raiseCond_same _ _ _)

/-! ### Records, sheets and queues -/

theorem updateSet_same (n : Nat) (f : SetRec → SetRec) (s : State) : SameExcept [.table] s (updateSet n f s) :=
  setTable_same _
theorem putSetState_same (n : Nat) (x : SetState) (s : State) : SameExcept [.table] s (putSetState n x s) :=
  setTable_same _
theorem setList_same (l : List SheetEntry) (s : State) : SameExcept [.track] s (s.setList l) := setTrack_same _

theorem evalTrackFull_same (s : State) : SameExcept [.links, .line, .ev] s (evalTrackFull s) := by
  unfold evalTrackFull; split
  · exact setHold_same _ _ _
  · split
    · exact setHold_same _ _ _
    · exact .refl _

theorem makeTerminal_same (n : Nat) (x : SetState) (s : State) :
    SameExcept [.table, .line, .track, .ev] s (makeTerminal n x s) := by
  unfold makeTerminal; split
  · exact (((putSetState_same n x s).comp (setLine_same _) : SameExcept [.table, .line] _ _).comp
      (setList_same _ _) : SameExcept [.table, .line, .track] _ _).comp (setEv_same _)
  · exact .refl _

theorem testDiverted_same (n : Nat) (s : State) : SameExcept [.table, .line, .track, .ev] s (testDiverted n s) := by
  unfold testDiverted; split
  · exact makeTerminal_same _ _ _
  · exact .refl _

theorem testDivertedOpt_same (n : Option Nat) (s : State) :
    SameExcept [.table, .line, .track, .ev] s (testDivertedOpt n s) := by
  cases n
  · exact .refl _
  · exact testDiverted_same _ _

theorem turnToWaste_same (n : Nat) (s : State) : SameExcept [.track, .ev] s (turnToWaste n s) := by
  unfold turnToWaste; split
  · exact (setList_same _ _).comp (setEv_same _)
  · exact (setList_same _ _).mono

theorem stopHoldOf_same (n : Nat) (s : State) : SameExcept [.acc] s (stopHoldOf n s) := by
  unfold stopHoldOf; split
  · exact setAcc_same _
  · exact .refl _

theorem recordCause_same (n : Nat) (k : SetCause) (i : Option Nat) (s : State) :
    SameExcept [.table, .acc, .track, .line, .ev] s (recordCause n k i s) := by
  unfold recordCause; split
  · exact .refl _
  · split
    · have a : SameExcept [.table, .acc] s (stopHoldOf n (updateSet n (SetRec.fail k i) s)) :=
        (updateSet_same _ _ _).comp (stopHoldOf_same _ _)
      have b : SameExcept [.table, .acc, .track] s (followRef n (stopHoldOf n (updateSet n (SetRec.fail k i) s))) :=
        a.comp (setTrack_same _)
      have d : SameExcept [.table, .acc, .track, .ev] s
          (turnToWaste n (followRef n (stopHoldOf n (updateSet n (SetRec.fail k i) s)))) := b.comp (turnToWaste_same _ _)
      have e : SameExcept [.table, .acc, .track, .ev] s
          (turnToWaste n (followRef n (stopHoldOf n (updateSet n (SetRec.fail k i) s)))).askDump := d.comp (setEv_same _)
      exact e.comp (testDiverted_same _ _)
    · exact .refl _

theorem joinQueues_same (n : Nat) (s : State) : SameExcept [.links, .table, .ev] s (joinQueues s n) := by
  have c : ∀ u, SameExcept [.links, .table, .ev] u (joinCompletion n u) := by
    intro u; unfold joinCompletion; dsimp only; split
    · exact (setTable_same _).comp (raiseCond_same _ _ _)
    · exact (setTable_same _).mono
  have r : ∀ u, SameExcept [.links, .table, .ev] u (joinReprintIf n u) := by
    intro u; unfold joinReprintIf; split
    · split
      · unfold joinReprint; dsimp only; split
        · exact (setTable_same _).comp (raiseCond_same _ _ _)
        · exact (setTable_same _).mono
      · exact .refl _
    · exact .refl _
  exact (c s).comp (r _)

theorem foldl_same {α : Type} (f : State → α → State) (h : ∀ u x, SameExcept l u (f u x)) (xs : List α) :
    ∀ s, SameExcept l s (xs.foldl f s) := by
  induction xs with
  | nil => exact fun s => .refl s
  | cons x xs ih => exact fun s => (h s x).comp (ih _) (List.Subset.refl _) (List.Subset.refl _)

theorem flushEnded_same (s : State) : SameExcept [.links, .table, .ev] s (flushEnded s) :=
  (setEv_same _).comp (foldl_same joinQueues (fun u n => joinQueues_same n u) _ _)

/-! ### The accumulator -/

theorem beginHold_same (n i : Nat) (s : State) : SameExcept [.links, .table, .acc, .ev] s (beginHold n i s) :=
  ((putSetState_same n .held s).comp (setAcc_same _) : SameExcept [.table, .acc] _ _).comp (raiseCond_same _ _ _)

theorem takeSteps_same (k : Nat) : ∀ s, SameExcept [.links, .table, .acc, .ev] s (takeSteps k s) := by
  induction k with
  | zero => exact fun s => .refl s
  | succ k ih =>
    intro s
    unfold takeSteps
    split
    · exact .refl _
    · split
      · split
        · split
          · exact (updateSet_same _ _ _).comp (ih _)
          · exact beginHold_same _ _ _
        · split
          · exact (updateSet_same _ _ _).comp (ih _)
          · exact (putSetState_same _ _ _).mono
        · exact .refl _
      · exact .refl _

theorem runSteps_same (s : State) : SameExcept [.links, .table, .acc, .ev] s (runSteps s) := takeSteps_same _ _

theorem evalAccBlocked_same (s : State) : SameExcept [.links, .line, .ev] s (evalAccBlocked s) := setHold_same _ _ _

theorem startHandOver_same (r : SetRec) (s : State) :
    SameExcept [.links, .table, .acc, .folder, .line, .ev] s (startHandOver r s) :=
  (((putSetState_same r.number .folding s).comp (setAcc_same _) : SameExcept [.table, .acc] _ _).comp
    (setFolder_same _) : SameExcept [.table, .acc, .folder] _ _).comp (evalAccBlocked_same _)

theorem examHandOver_same (s : State) : SameExcept [.links, .table, .acc, .folder, .line, .ev] s (examHandOver s) := by
  unfold examHandOver; split
  · split
    · exact startHandOver_same _ _
    · exact .refl _
  · exact .refl _

theorem startDump_same (s : State) : SameExcept [.links, .acc, .line, .ev] s (startDump s) :=
  (setAcc_same _).comp (evalAccBlocked_same _)

theorem examDump_same (s : State) : SameExcept [.links, .acc, .line, .ev] s (examDump s) := by
  unfold examDump; split
  · exact startDump_same _
  · exact .refl _

theorem startStroke_same (a b : Bool) (s : State) : SameExcept [.acc] s (startStroke a b s) := setAcc_same _

theorem examSquaring_same (s : State) : SameExcept [.acc] s (examSquaring s) := by
  unfold examSquaring; split
  · split
    · exact startStroke_same _ _ _
    · exact .refl _
  · exact .refl _

theorem examObligation_same (s : State) : SameExcept [.acc] s (examObligation s) := by
  unfold examObligation; split
  · exact .refl _
  · split
    · exact startStroke_same _ _ _
    · exact .refl _

theorem setObligation_same (o : Obligation) (s : State) : SameExcept [.links, .acc, .line, .ev] s (setObligation o s) :=
  (setAcc_same _).comp (setHold_same _ _ _)

theorem examStack_same (s : State) : SameExcept [.links, .table, .acc, .folder, .line, .ev] s (examStack s) :=
  ((examDump_same s).comp (examHandOver_same _) : SameExcept [.links, .table, .acc, .folder, .line, .ev] _ _).comp
    (examSquaring_same _)

theorem goOn_same (s : State) : SameExcept [.links, .table, .acc, .folder, .line, .ev] s (goOn s) :=
  ((runSteps_same s).comp (examHandOver_same _) : SameExcept [.links, .table, .acc, .folder, .line, .ev] _ _).comp
    (examSquaring_same _)

theorem endAwait_same (s : State) : SameExcept [.links, .table, .acc, .folder, .line, .ev] s (endAwait s) := by
  unfold endAwait; split
  · split
    · exact (updateSet_same _ _ _).comp (goOn_same _)
    · exact .refl _
  · exact .refl _

theorem examDumpIf_same (s : State) : SameExcept [.links, .acc, .line, .ev] s (examDumpIf s) := by
  unfold examDumpIf; split
  · exact examDump_same _
  · exact .refl _

theorem examAsked_same (s : State) : SameExcept [.links, .table, .acc, .folder, .line, .ev] s (examAsked s) := by
  unfold examAsked; split
  · exact (endAwait_same _).comp (examDumpIf_same _)
  · exact (examDumpIf_same _).mono

/-- An event that asked for no gate plan ends without touching the web, the reader, the sheets, the firings or the belt. -/
theorem settle_same (h : s.ev.planWanted = false) : SameExcept [.links, .table, .acc, .folder, .line, .ev] s (settle s) := by
  have p : replan s = s := replan_idle h
  unfold settle; rw [p]
  exact (examAsked_same s).comp (flushEnded_same _)

/-! ### The belt -/

theorem examBeltGate_same (s : State) : SameExcept [.belt] s (examBeltGate s) := by
  unfold examBeltGate; split
  · exact setBelt_same _
  · exact .refl _

theorem wantBeltGate_same (s : State) : SameExcept [.belt] s (wantBeltGate s) :=
  (setBelt_same _).comp (examBeltGate_same _)

theorem makeOffer_same (n : Nat) (s : State) : SameExcept [.links, .table, .belt, .ev] s (makeOffer n s) :=
  ((setBelt_same _).comp (putSetState_same n .offered _) : SameExcept [.table, .belt] _ _).comp (raiseCond_same _ _ _)

theorem endOffer_same (s : State) : SameExcept [.links, .belt] s (endOffer s) :=
  (setBelt_same _).comp (removeCond_same _ _)

theorem leaveBelt_same (s : State) : SameExcept [.belt] s (leaveBelt s) := (setBelt_same _).comp (setBelt_same _)

end Sys2Proof.Machine
end

