-- ==== Sys2Proof/Laws/Effects.lean ====
section
/-! SUPPORT. What the shared operations do to the part of the state they change: the pending conditions, the hold-cause set,
the line fault record, the records. -/

namespace Sys2Proof.Machine

variable {s t : State}

/-! ### Pending conditions -/

theorem insertCond_any (x : PendingCond) (q : PendingCond → Bool) (xs : List PendingCond) :
    (insertCond x xs).any q = (q x || xs.any q) := by
  induction xs with
  | nil => simp [insertCond]
  | cons y xs ih =>
    unfold insertCond
    split
    · simp
    · simp [ih, Bool.or_left_comm]

@[simp] theorem State.port_setEv (s : State) (x : Event) (p : Port) : (s.setEv x).port p = s.port p := rfl

/-- After a condition is raised, it and what was pending before are pending. -/
theorem raiseCond_pending (k j : Cond) (x : CondParam) (s : State) :
    (raiseCond k x s).isPending j = (s.isPending j || decide (j = k)) := by
  unfold raiseCond; dsimp only
  split
  · rename_i h
    unfold State.isPending
    by_cases p : j.port = k.port
    · rw [p, State.setPort_port_self]
      simp only [List.any_map]
      have e : ((fun y : PendingCond => y.cond == j) ∘ fun y => if y.cond = k then { y with param := x } else y) =
          fun y : PendingCond => y.cond == j := by
        funext y; simp only [Function.comp]; split <;> rfl
      rw [e]
      by_cases c : j = k
      · subst c; unfold State.isPending at h; simp [h]
      · simp [c]
    · rw [State.setPort_port_of_ne p]
      have c : j ≠ k := fun e => p (by rw [e])
      simp [c]
  · unfold State.isPending
    rw [State.port_setEv]
    by_cases p : j.port = k.port
    · rw [p, State.setPort_port_self]
      simp only [insertCond_any]
      by_cases c : j = k
      · subst c; simp
      · have c' : k ≠ j := fun e => c e.symm
        simp [c, c']
    · rw [State.setPort_port_of_ne p]
      have c : j ≠ k := fun e => p (by rw [e])
      simp [c]

/-- After a condition is removed, what was pending before but it is pending. -/
theorem removeCond_pending (k j : Cond) (s : State) :
    (removeCond k s).isPending j = (s.isPending j && !decide (j = k)) := by
  unfold removeCond State.isPending
  by_cases p : j.port = k.port
  · dsimp only
    rw [p, State.setPort_port_self]
    simp only [List.any_filter]
    by_cases c : j = k
    · subst c; simp
    · rw [Bool.eq_iff_iff]; simp only [List.any_eq_true]
      constructor
      · rintro ⟨y, m, h⟩
        simp only [Bool.and_eq_true] at h
        exact (by simp [c]; exact ⟨y, m, by simpa using h.2⟩)
      · intro h
        simp [c] at h
        obtain ⟨y, m, e⟩ := h
        exact ⟨y, m, by simp [e, c]⟩
  · dsimp only
    rw [State.setPort_port_of_ne p]
    have c : j ≠ k := fun e => p (by rw [e])
    simp [c]

theorem isPending_of_links (h : t.links = s.links) (j : Cond) : t.isPending j = s.isPending j := by
  unfold State.isPending State.port; rw [h]

/-- Notices change no pending condition. -/
theorem sendNotices_conds (p : Port) (w : Cond → Bool) (s : State) (q : Port) :
    ((sendNotices p w s).port q).conds = (s.port q).conds := by
  unfold sendNotices; split
  · rfl
  · by_cases h : q = p
    · subst h; rw [State.setPort_port_self]
    · rw [State.setPort_port_of_ne h]

theorem flushNotices_conds (s : State) (q : Port) : ((flushNotices s).port q).conds = (s.port q).conds := by
  show ((sendNotices .delivery _ (sendNotices .line _ (sendNotices .job _ s))).port q).conds = _
  rw [sendNotices_conds, sendNotices_conds, sendNotices_conds]

theorem flushNotices_pending (s : State) (j : Cond) : (flushNotices s).isPending j = s.isPending j := by
  unfold State.isPending; rw [flushNotices_conds]

/-! ### The hold-cause set and the line fault record -/

@[simp] theorem raiseCond_line (k : Cond) (x : CondParam) (s : State) : (raiseCond k x s).line = s.line :=
  raiseCond_same k x s .line (by decide)

/-- A hold cause is asserted or removed in the hold-cause set, and in nothing else of the line. -/
theorem setHold_line (k : HoldCause) (b : Bool) (s : State) :
    (setHold k b s).line = { s.line with holds := s.line.holds.put k b } := by
  unfold setHold; dsimp only
  split
  · rename_i h; rw [HoldSet.put_of_has h]
  · split
    · rw [raiseCond_line]; rfl
    · rfl
    · rfl

/-- A line fault on a line that is not FAULTED (R159). -/
theorem lineFault_enters (k : LineCause) (n : Option Nat) (h : s.line.state ≠ .faulted) :
    (lineFault k n s).line =
      { s.line with
        state := .faulted
        record := { cause := some k, set := n, further := false }
        stopPoint := if s.line.state = .running then s.web.position else s.line.stopPoint } := by
  unfold lineFault
  split
  · rename_i e; exact absurd e h
  · rename_i e; rw [raiseCond_line]; simp [State.setLine, e]
  · rename_i e; rw [raiseCond_line]; simp [State.setLine, e]

/-- A further line fault (R159). -/
theorem lineFault_further (k : LineCause) (n : Option Nat) (h : s.line.state = .faulted) :
    lineFault k n s = s.setLine { s.line with record := { s.line.record with further := true } } := by
  unfold lineFault; rw [h]

/-! ### Records -/

/-- The record found after an update of the records of one number. -/
theorem findSet_updateSet (n m : Nat) (f : SetRec → SetRec) (hf : ∀ r, (f r).number = r.number) (s : State) :
    (updateSet n f s).findSet m = (s.findSet m).map fun r => if r.number = n then f r else r := by
  unfold updateSet State.findSet
  show (s.table.records.map _).find? _ = _
  rw [List.find?_map]
  have e : ((fun r : SetRec => r.number == m) ∘ fun r => if r.number = n then f r else r) = fun r => r.number == m := by
    funext r; simp only [Function.comp]; split
    · rw [hf]
    · rfl
  rw [e]

theorem findSet_number {n : Nat} {r : SetRec} (h : s.findSet n = some r) : r.number = n := by
  have := List.find?_some h; simpa using this

/-- The record of the updated number. -/
theorem findSet_updateSet_self {n : Nat} {r : SetRec} (f : SetRec → SetRec) (hf : ∀ r, (f r).number = r.number)
    (h : s.findSet n = some r) : (updateSet n f s).findSet n = some (f r) := by
  rw [findSet_updateSet n n f hf, h]; simp [findSet_number h]

/-- A record of another number. -/
theorem findSet_updateSet_other {n m : Nat} (f : SetRec → SetRec) (hf : ∀ r, (f r).number = r.number) (h : n ≠ m)
    (s : State) : (updateSet m f s).findSet n = s.findSet n := by
  rw [findSet_updateSet m n f hf]
  cases e : s.findSet n with
  | none => rfl
  | some r => have := findSet_number e; simp [this, h]

theorem findSet_putSetState_other {n m : Nat} (x : SetState) (h : n ≠ m) (s : State) :
    (putSetState m x s).findSet n = s.findSet n :=
  findSet_updateSet_other _ (SetRec.put_number x) h s

theorem findSet_putSetState_self {n : Nat} {r : SetRec} (x : SetState) (h : s.findSet n = some r)
    (o : r.state.terminal = false) : (putSetState n x s).findSet n = some { r with state := x } := by
  rw [putSetState, findSet_updateSet_self _ (SetRec.put_number x) h, SetRec.put_open x o]

/-- A set that is not terminal enters its terminal state and is noted as ended at the event. -/
theorem makeTerminal_open {n : Nat} {r : SetRec} (x : SetState) (h : s.findSet n = some r)
    (o : r.state.terminal = false) :
    makeTerminal n x s = (detachSheets n ((putSetState n x s).withTally (Tally.ended x))).askEnded n := by
  have u : s.unended n = true := by simp [State.unended, State.setState, h, o]
  unfold makeTerminal
  rw [u]
  rfl

theorem findSet_of_table (h : t.table = s.table) (n : Nat) : t.findSet n = s.findSet n := by
  unfold State.findSet; rw [h]

theorem findSet_of_records (h : t.table.records = s.table.records) (n : Nat) : t.findSet n = s.findSet n := by
  unfold State.findSet; rw [h]

theorem heldRec_found {r : SetRec} (h : s.heldRec = some r) : s.findSet r.number = some r ∧ s.acc.held = some r.number := by
  unfold State.heldRec at h
  cases e : s.acc.held with
  | none => rw [e] at h; cases h
  | some n =>
    rw [e] at h
    have f : s.findSet n = some r := h
    have := findSet_number f
    exact ⟨by rw [this]; exact f, by rw [this]⟩

/-! ### The records through the end of an event -/

theorem raiseCond_findSet (k : Cond) (x : CondParam) (s : State) (n : Nat) : (raiseCond k x s).findSet n = s.findSet n :=
  findSet_of_table (raiseCond_same k x s .table (by decide)) n

theorem setHold_findSet (k : HoldCause) (b : Bool) (s : State) (n : Nat) : (setHold k b s).findSet n = s.findSet n :=
  findSet_of_table (setHold_same k b s .table (by decide)) n

theorem beginHold_findSet {n m : Nat} (i : Nat) (h : n ≠ m) (s : State) :
    (beginHold m i s).findSet n = s.findSet n := by
  unfold beginHold; dsimp only
  rw [raiseCond_findSet]
  exact findSet_putSetState_other .held h s

/-- The accumulator steps change no record but the held set's, and that only while it is COLLECTED. -/
theorem takeSteps_findSet (k : Nat) : ∀ (s : State) (n : Nat),
    (∀ r, s.heldRec = some r → r.state = .collected → r.number ≠ n) → (takeSteps k s).findSet n = s.findSet n := by
  induction k with
  | zero => exact fun s n _ => rfl
  | succ k ih =>
    intro s n h
    unfold takeSteps
    split
    · rfl
    · rename_i r e
      split
      · rename_i c
        have ne : n ≠ r.number := fun x => h r e c x.symm
        have next : ∀ f : SetRec → SetRec, (∀ r, (f r).number = r.number) →
            (takeSteps k (updateSet r.number f s)).findSet n = s.findSet n := by
          intro f hf
          rw [ih _ n, findSet_updateSet_other f hf ne]
          intro r' e' _ x
          have a : s.acc.held = some r'.number := (heldRec_found e').2
          rw [(heldRec_found e).2] at a
          exact ne (by rw [← x]; exact (Option.some.inj a).symm)
        split
        · split
          · exact next _ fun _ => rfl
          · exact beginHold_findSet _ ne s
        · split
          · exact next _ fun _ => rfl
          · exact findSet_putSetState_other .waiting ne s
        · rfl
      · rfl

theorem evalAccBlocked_findSet (s : State) (n : Nat) : (evalAccBlocked s).findSet n = s.findSet n := setHold_findSet _ _ _ _

/-- The set that is ready for hand-over is the held set, COLLECTED. -/
theorem readySet_held {r : SetRec} (h : readySet s = some r) : s.heldRec = some r ∧ r.state = .collected := by
  unfold readySet at h
  split at h
  · rename_i e
    split at h
    · rename_i c; cases h; exact ⟨e, c.1⟩
    · cases h
  · cases h

/-- A hand-over changes no record but the held set's, and that only while it is COLLECTED. -/
theorem examHandOver_findSet (s : State) (n : Nat)
    (h : ∀ r, s.heldRec = some r → r.state = .collected → r.number ≠ n) : (examHandOver s).findSet n = s.findSet n := by
  unfold examHandOver
  split
  · rename_i r e
    split
    · have ne : n ≠ r.number := fun x => h r (readySet_held e).1 (readySet_held e).2 x.symm
      unfold startHandOver
      rw [evalAccBlocked_findSet]
      exact findSet_putSetState_other .folding ne s
    · rfl
  · rfl

theorem examSquaring_findSet (s : State) (n : Nat) : (examSquaring s).findSet n = s.findSet n :=
  findSet_of_table (examSquaring_same s .table (by decide)) n

theorem examDump_findSet (s : State) (n : Nat) : (examDump s).findSet n = s.findSet n :=
  findSet_of_table (examDump_same s .table (by decide)) n

theorem runSteps_held (s : State) : ∀ k, (takeSteps k s).acc.held = s.acc.held := by
  intro k
  induction k generalizing s with
  | zero => rfl
  | succ k ih =>
    unfold takeSteps
    split
    · rfl
    · split
      · split
        · split
          · exact ih _
          · unfold beginHold; dsimp only
            rw [show (raiseCond _ _ _).acc = _ from raiseCond_same _ _ _ .acc (by decide)]; rfl
        · split
          · exact ih _
          · rfl
        · rfl
      · rfl

/-- Going on with the accumulator steps, a hand-over and a squaring stroke change no record but the held set's. -/
theorem goOn_findSet (s : State) (n : Nat)
    (h : ∀ r, s.heldRec = some r → r.state = .collected → r.number ≠ n) : (goOn s).findSet n = s.findSet n := by
  unfold goOn
  rw [examSquaring_findSet, examHandOver_findSet, runSteps, takeSteps_findSet 4 s n h]
  intro r e c x
  have q : (takeSteps 4 s).findSet n = s.findSet n := takeSteps_findSet 4 s n h
  have a := (heldRec_found e).2
  have f := (heldRec_found e).1
  unfold runSteps at a f
  rw [runSteps_held] at a
  rw [x, q] at f
  refine h r ?_ c x
  unfold State.heldRec
  rw [a, x]; exact f

/-- The end of an AWAIT step changes no record but the held set's, and that only while it is WAITING. -/
theorem endAwait_findSet (s : State) (n : Nat) (h : ∀ r, s.heldRec = some r → r.state = .waiting → r.number ≠ n) :
    (endAwait s).findSet n = s.findSet n := by
  unfold endAwait
  split
  · rename_i r e
    split
    · rename_i w
      have ne : n ≠ r.number := fun x => h r e w.1 x.symm
      rw [goOn_findSet, findSet_updateSet_other (SetRec.finish .await) (fun _ => rfl) ne]
      intro r' e' _ x
      have a := (heldRec_found e').2
      have b := (heldRec_found e).2
      have : (updateSet r.number (SetRec.finish .await) s).acc.held = s.acc.held := rfl
      rw [this, b] at a
      simp at a
      exact ne (by rw [← x, ← a])
    · rfl
  · rfl

theorem examDumpIf_findSet (s : State) (n : Nat) : (examDumpIf s).findSet n = s.findSet n :=
  findSet_of_table (examDumpIf_same s .table (by decide)) n

theorem examAsked_findSet (s : State) (n : Nat)
    (h : s.ev.awaitExam = true → ∀ r, s.heldRec = some r → r.state = .waiting → r.number ≠ n) :
    (examAsked s).findSet n = s.findSet n := by
  unfold examAsked
  rw [examDumpIf_findSet]
  split
  · rename_i a; exact endAwait_findSet s n (h a)
  · rfl

theorem joinQueues_records (s : State) (n : Nat) : (joinQueues s n).table.records = s.table.records := by
  have rc : ∀ k x u, (raiseCond k x u).table = u.table := fun k x u => raiseCond_same k x u .table (by decide)
  have c : ∀ u, (joinCompletion n u).table.records = u.table.records := by
    intro u; unfold joinCompletion; dsimp only; split
    · rw [rc]; rfl
    · rfl
  have r : ∀ u, (joinReprintIf n u).table.records = u.table.records := by
    intro u; unfold joinReprintIf; split
    · split
      · unfold joinReprint; dsimp only; split
        · rw [rc]; rfl
        · rfl
      · rfl
    · rfl
  unfold joinQueues; rw [r, c]

theorem flushEnded_records (s : State) : (flushEnded s).table.records = s.table.records := by
  have f : ∀ (xs : List Nat) (u : State), (xs.foldl joinQueues u).table.records = u.table.records := by
    intro xs; induction xs with
    | nil => exact fun _ => rfl
    | cons x xs ih => exact fun u => (ih _).trans (joinQueues_records u x)
  exact f _ _

/-- The end of an event that asked for no gate plan changes no record but the held set's, and that only while it is
WAITING. -/
theorem settle_findSet (n : Nat) (p : s.ev.planWanted = false)
    (h : s.ev.awaitExam = true → ∀ r, s.heldRec = some r → r.state = .waiting → r.number ≠ n) :
    (settle s).findSet n = s.findSet n := by
  have q : replan s = s := replan_idle p
  unfold settle; rw [q, findSet_of_records (flushEnded_records _), examAsked_findSet s n h]

theorem flushNotices_findSet (s : State) (n : Nat) : (flushNotices s).findSet n = s.findSet n :=
  findSet_of_table (flushNotices_same s .table (by decide)) n

theorem event_findSet (rule : State → State) (n : Nat) : (event rule s).findSet n = (settle (rule s.begin)).findSet n :=
  flushNotices_findSet _ n

theorem produce_findSet (p : Port) (f : TxFrame) (s : State) (n : Nat) : (produce p f s).findSet n = s.findSet n :=
  findSet_of_table (produce_same p f s .table (by decide)) n

theorem answer_findSet (p : Port) (k : Byte) (r : Reply) (n : Nat) : (answer p k r s).findSet n = (settle s).findSet n := by
  show (flushNotices (produce p _ (settle s))).findSet n = _
  rw [flushNotices_findSet, produce_findSet]

/-! ### The parts through an answer and an event -/

theorem answer_same (p : Port) (k : Byte) (r : Reply) (s : State) : SameExcept [.links, .ev] (settle s) (answer p k r s) :=
  ((produce_same p (replyFrame (settle s) p k r) (settle s)).comp (flushNotices_same _) : SameExcept [.links, .ev] _ _).comp
    (setEv_same _)

theorem event_same (rule : State → State) (s : State) : SameExcept [.links, .ev] (settle (rule s.begin)) (event rule s) :=
  (flushNotices_same _).comp (setEv_same _)

theorem quiet_same (rule : State → State) (s : State) : SameExcept [.links, .ev] (rule s.begin) (quiet rule s) :=
  (flushNotices_same _).comp (setEv_same _)

end Sys2Proof.Machine
end

