-- ==== Sys2Proof/WellFormed.lean ====
section
/-! DEFINITION. Well-formed commands. Every operand type but one admits only values the spec gives, so one check
is left: the bytes of a GOOD_FRAME are one frame's worth, 1 to 124 (R172: a frame is 5 to 124 bytes long; a shorter
run is a frame cut short, which FRAME_TIMEOUT or LINK_BREAK then discards). The meanings are total: they do not
assume it. -/

namespace Sys2Proof

/-- The longest frame, N = 120 (R172). -/
def longestFrame : Nat := 124

/-- Whether a command's operands are ones the spec gives it. -/
def Instr.wellFormed : Instr → Bool
  | .goodFrame _ bytes => decide (1 ≤ bytes.length ∧ bytes.length ≤ longestFrame)
  | _ => true

end Sys2Proof
end

