-- ==== Sys2Proof/Tests/Slice0.lean ====
section
/-! SUPPORT. Tests: the well-formedness check, values worked in the spec, one or two small steps of each command, and
for each statement with hypotheses a state that meets them. Each test names the place in the spec its values are
from. -/

namespace Sys2Proof.Tests

open Sys2Proof Sys2Proof.Machine

/-! ### Helpers -/

/-- The state after a command. -/
def after (c : Instr) (s : State) : State :=
  match exec c s with
  | .next t => t
  | .fault _ => s
  | .refused _ => s

/-- A configured line in a state, GUARD closed, everything else as after reset. -/
def lineIn (x : LineState) (record : FaultRecord) : State :=
  { State.reset with
    table := { State.reset.table with profileLoaded := true }
    line := { State.reset.line with
      state := x, record := record, guard := .closed, sweep := false, geometryLoaded := true } }

/-- A STOPPED line. -/
def stopped : State := lineIn .stopped FaultRecord.none

/-- A RUNNING line. -/
def running : State := lineIn .running FaultRecord.none

/-- A FAULTED line. -/
def faulted : State := lineIn .faulted { cause := some .guardOpen, set := none, further := false }

/-- s with the web at P. -/
def atPos (p : Pos) (s : State) : State := { s with web := { s.web with position := p } }

/-- s with the records given. -/
def withSets (rs : List SetRec) (s : State) : State := { s with table := { s.table with records := rs } }

/-- A set of 2 pages of job 5, priority 3. -/
def aSet (n : Nat) (x : SetState) (program : List Step) : SetRec :=
  { number := n, jobId := 5, pages := 2, priority := 3, program := program, state := x }

/-- s with the accumulator in a state, holding set n. -/
def inBinOf (x : AccState) (n : Nat) (s : State) : State :=
  { s with acc := { Accumulator.empty with state := x, held := some n, sheets := 2 } }

/-- s with the link of port p UP and requests in its queue. -/
def queued (p : Port) (rs : List Request) (s : State) : State :=
  s.setPort p { s.port p with link := .up, queue := rs }

/-- s with one request waiting at port p. -/
def ask (p : Port) (k : RequestKind) (body : List Byte) (s : State) : State :=
  queued p [{ kind := k.code, body := body, overrun := false }] s

theorem waits_ask (p : Port) (k : RequestKind) (body : List Byte) (s : State) (h : (s.port p).replying = false) :
    Waits p { kind := k.code, body := body, overrun := false } (ask p k body s) := by
  cases p <;> exact ⟨rfl, h, rfl⟩

theorem asks_ask (p : Port) (k : RequestKind) (body : List Byte) (s : State) (h : (s.port p).replying = false)
    (ha : k.allowedOn p = true) (hs : s.line.sweep = false) : Asks p k body (ask p k body s) :=
  ⟨waits_ask p k body s h, ha, by cases p <;> exact hs⟩

theorem none_in_nil {n : Nat} {s : State} (h : s.track.list = []) : NoneToTurn n s := by
  intro e he
  rw [h] at he
  cases he

/-- The result byte of the reply last produced on port p (Table 10-2: byte 1 of the body). -/
def resultOf (p : Port) (s : State) : Option Byte :=
  ((s.port p).tx.filter fun f => f.kind == replyKind).getLast?.bind fun f => f.body[1]?

/-- The body of the reply last produced on port p, past its 8 bytes of head (Table 10-2). -/
def dataOf (p : Port) (s : State) : Option (List Byte) :=
  ((s.port p).tx.filter fun f => f.kind == replyKind).getLast?.map fun f => f.body.drop 8

/-! ### Well-formed commands, and the words of the table -/

/-- A run of no bytes is no command (R172: a frame is 5 to 124 bytes). -/
theorem test_goodFrame_empty_is_ill_formed : (Instr.goodFrame .job []).wellFormed = false := by decide

/-- A run of 125 bytes is no command (R172). -/
theorem test_goodFrame_125_is_ill_formed :
    (Instr.goodFrame .line (List.replicate 125 { value := 0, stop := true })).wellFormed = false := by decide +kernel

/-- A run of 124 bytes is one (R172). -/
theorem test_goodFrame_124_is_well_formed :
    (Instr.goodFrame .line (List.replicate 124 { value := 0, stop := true })).wellFormed = true := by decide +kernel

/-- No row of the table gives bits, so no word spells a command. -/
theorem test_no_word_spells_a_command : decodeTableWord 8 0x0A = none := by decide

/-! ### Values worked in the spec -/

/-- Table 2-1. -/
theorem test_lead_table_2_1 :
    [lead 1999 1, lead 2000 1, lead 3500 120, lead 6000 120, lead 6000 100, lead 20000 255] =
      [0, 1, 105, 180, 150, 1275] := by decide

/-- Table 2-2: the clearances at 40 ms and w = 0, 100, 120, 255, full and short, and those at 45 ms and w = 7. -/
theorem test_clearance_table_2_2 :
    [clearance 40000 0 100, clearance 40000 100 100, clearance 40000 120 100, clearance 40000 255 100,
      clearance 20000 100 100, clearance 20000 120 100, clearance 20000 255 100, clearance 45000 7 100,
      clearance 22000 7 100] = [100, 1100, 1300, 2650, 600, 700, 1375, 179, 139] := by decide

/-- Section 2.7: signed distances across the wrap, and the knife target of the row at E = 16,777,000. -/
theorem test_positions_across_the_wrap :
    signedDist 16777150#24 4594#24 = 4660 ∧ signedDist 16777180#24 64#24 = 100 ∧
      signedDist 16777100#24 100#24 = 216 ∧ plus (plus 16777000#24 3048) 1850 = 4682#24 ∧
      ahead 16777150#24 4594#24 = true := by decide

/-- Section 2.7: the window of a sheet due at 16,777,100 is open from 16,776,800 to 184. -/
theorem test_window_across_the_wrap :
    within 300 16776800#24 16777100#24 = true ∧ within 300 16776799#24 16777100#24 = false ∧
      within 300 184#24 16777100#24 = true ∧ within 300 185#24 16777100#24 = false := by decide

/-- The codeword of Table 3-4: 1-cells at 0, 8, 16, 19, 21, 28, 29, 31. -/
def printed : Cells := 0xB0290101#32

/-- The page that codeword carries (section 3.2). -/
def printedMark : Mark := { kind := .page, tag := 5, page := 3, colour := 1 }

/-- Section 3.2, lines 1 to 4: as printed, and with cell 21, 0 or 8 wrong. -/
theorem test_decode_case_good :
    decodeMark false false printed = { result := .clean, mark := some printedMark, cause := none } ∧
      [invertCell printed 21, invertCell printed 0, invertCell printed 8].map (decodeMark false false) =
        List.replicate 3 { result := .corrected, mark := some printedMark, cause := none } := by decide

/-- Section 3.2, lines 5 to 7: two wrong cells, three wrong cells, and one under strict marks. -/
theorem test_decode_case_unread :
    syndrome (invertCell (invertCell printed 21) 28) = 9 ∧
      decodeMark false false (invertCell (invertCell printed 21) 28) = Decoded.unread .uncorrectable ∧
      decodeMark false false (invertCell (invertCell (invertCell printed 21) 28) 29) = Decoded.unread .badPage ∧
      decodeMark true false (invertCell printed 21) = Decoded.unread .strict := by decide

/-- R172: one byte 00h from FFFFh, the register worked by hand through the eight shifts of the rule. -/
theorem test_crc_of_a_zero_byte : crc [0x00#8] = 0xE1F0#16 := by decide

/-- The set of section 1's example: 70004, 6 pages, HOLD 30, FOLD LETTER, ROUTE DELIVER. -/
def set70004 : SetRec :=
  { number := 70004, jobId := 21, pages := 6, priority := 2, program := [.hold 30, .fold .letter, .route .deliver] }

/-- Example "amending a pending set": its tag and job colour. -/
theorem test_tag_and_colour : set70004.tag = 4468 ∧ set70004.colour = 1 := by decide

/-! ### Requests of the job port -/

/-- The descriptor of 70004 (Table 1-4). -/
def body70004 : List Byte :=
  [0x74, 0x11, 0x01, 0x00, 0x15, 0x00, 0x06, 0x02, 0x03, 0x02, 0x1E, 0x00, 0x04, 0x02, 0x00, 0x05, 0x00, 0x00]

/-- The set number 70004 (Table 10-8). -/
def number70004 : List Byte := [0x74, 0x11, 0x01, 0x00]

/-- R11: LOAD SET creates the record. -/
theorem test_loadSet : (after .loadSet (ask .job .loadSet body70004 stopped)).table.records = [set70004] := by decide

/-- R11: the same set again is SET_EXISTS (08h). -/
theorem test_loadSet_twice :
    resultOf .job (after .loadSet (ask .job .loadSet body70004 (withSets [set70004] stopped))) = some 0x08 := by decide

/-- The 2-UP profile of section 2.7: FL 3,048, merge offset 1,524 (R45). -/
def profileBody : List Byte := [0xE8, 0x0B, 0x1E, 0x00, 0x00, 0x00, 0x01, 0x00, 0xF4, 0x05, 0x28, 0x00, 0x00]

/-- That profile. -/
def profile2Up : Profile :=
  { formLength := 3048, tol := 30, markOffset := 0, layout := .twoUp, order := .leftFirst, mergeOffset := 1524,
    skew := 40, strict := false }

/-- R46: LOAD PROFILE installs it. -/
theorem test_loadProfile :
    (after .loadProfile (ask .job .loadProfile profileBody stopped)).table.profile = profile2Up := by decide +kernel

/-- AMEND SET of 70004 with declared pages 10. -/
def amendPages : List Byte := number70004 ++ [0, 1, 10, 0, 0, 0]

/-- AMEND SET of 70004 with declared pages 10 and fold HALF. -/
def amendFold : List Byte := number70004 ++ [0, 1, 10, 1, 1, 0, 0]

/-- Example "amending a pending set", line 1: PROGRAM_INVALID (13h), step 2. -/
theorem test_amendSet_invalid :
    resultOf .job (after .amendSet (ask .job .amendSet amendPages (withSets [set70004] stopped))) = some 0x13 ∧
      dataOf .job (after .amendSet (ask .job .amendSet amendPages (withSets [set70004] stopped))) = some [2] := by decide

/-- Example "amending a pending set", line 2. -/
theorem test_amendSet :
    (after .amendSet (ask .job .amendSet amendFold (withSets [set70004] stopped))).table.records =
      [{ set70004 with pages := 10, program := [.hold 30, .fold .half, .route .deliver] }] := by decide

/-- R14: CANCEL SET of a PENDING set. -/
theorem test_cancelSet :
    (after .cancelSet (ask .job .cancelSet number70004 (withSets [set70004] stopped))).table.completion = [70004] := by
  decide

/-- Example "amending a pending set", line 4: RELEASE SET pre-releases. -/
theorem test_releaseSet :
    (after .releaseSet (ask .job .releaseSet number70004 (withSets [set70004] stopped))).table.records =
      [{ set70004 with preReleased := true }] := by decide

/-- R16: QUERY SET of a PENDING set: its descriptor, then state 0, no pages, nothing passed, no cause. -/
theorem test_querySet :
    dataOf .job (after .querySet (ask .job .querySet number70004 (withSets [set70004] stopped))) =
      some (body70004 ++ [0, 0, 0, 0, 0, 0, 0, 0, 0, 0, 0]) := by decide +kernel

/-- A DIVERTED set in both lists, as 70002 of "outcomes collected after a reset and a purge". -/
def set70002 (reported : Bool) : SetRec :=
  { aSet 70002 .diverted [.fold .half, .route .deliver] with
    pages := 6, cause := some .unreadPage, reported := reported }

/-- The table that holds it. -/
def collected (completion reprint : List Nat) (reported : Bool) : State :=
  let s := withSets [set70002 reported] stopped
  { s with table := { s.table with completion := completion, reprint := reprint } }

/-- Example "outcomes collected after a reset and a purge", line 3: TAKE COMPLETION frees 70002. -/
theorem test_takeCompletion :
    (after .takeCompletion (ask .job .takeCompletion [] (collected [70002] [] false))).table.records = [] := by decide

/-- The same example, line 2: TAKE REPRINT of 70002 (11172h), job 5, 6 pages, UNREAD_PAGE (code 3), not freed. -/
theorem test_takeReprint :
    dataOf .job (after .takeReprint (ask .job .takeReprint [] (collected [70002] [70002] false))) =
        some [0x72, 0x11, 0x01, 0x00, 0x05, 0x00, 0x06, 0x01, 0x03] ∧
      (after .takeReprint (ask .job .takeReprint [] (collected [70002] [70002] false))).table.records =
        [set70002 false] := by decide

/-! ### Requests of the line port -/

/-- A geometry of one value: the full jog time (the twelfth value of Table 2-3, code 11), 45 ms. -/
def geometryBody : List Byte := [1, 11, 45, 0]

/-- R34: LOAD GEOMETRY merges the named value and keeps the others. -/
theorem test_loadGeometry :
    (after .loadGeometry (ask .line .loadGeometry geometryBody stopped)).line.geometry =
      { Geometry.default with fullJog := 45 } := by decide

/-- R155: START grants the run. -/
theorem test_start : (after .start (ask .line .start [] stopped)).permit = true := by decide

/-- R155: START with GUARD open is GUARD_OPEN (11h). -/
theorem test_start_guard :
    resultOf .line (after .start (ask .line .start [] (after .guardOpen stopped))) = some 0x11 := by decide

/-- R156: STOP sets the stop point to P. -/
theorem test_stop : (after .stop (ask .line .stop [] (atPos 700 running))).line.stopPoint = 700 := by decide

/-- R162: PURGE leaves the line STOPPED and diverts the set in the machine with PURGED. -/
theorem test_purge :
    (after .purge (ask .line .purge [] (withSets [aSet 7 .onBelt [.route .deliver]] faulted))).table.records =
      [{ aSet 7 .diverted [.route .deliver] with cause := some .purged }] := by decide

/-- R163, R22: RESET LINE gives a set in the machine INTERRUPTED. -/
theorem test_resetLine :
    (after .resetLine (ask .line .resetLine [] (withSets [aSet 7 .onBelt [.route .deliver]] stopped))).table.records =
      [{ aSet 7 .rejecting [.route .deliver] with cause := some .interrupted }] := by decide

/-- A Mark Capture record. -/
def captured (s : State) : State :=
  { s with reader := { s.reader with capture :=
      { severity := .corrected, lane := some .left, row := some 5, syndrome := some 21, parityOdd := some true,
        tag := some 5 } } }

/-- R61: CLEAR CAPTURE. -/
theorem test_clearCapture :
    (after .clearCapture (ask .line .clearCapture [] (captured stopped))).reader.capture.severity = .none := by decide

/-- A tally with counts. -/
def counted (s : State) : State :=
  { s with line := { s.line with tally := { Tally.zero with folds := 3 }, runFraction := 9 } }

/-- R169: CLEAR TALLY zeroes the counters and the fractions. -/
theorem test_clearTally :
    (after .clearTally (ask .line .clearTally [] (counted stopped))).line.tally.folds = 0 ∧
      (after .clearTally (ask .line .clearTally [] (counted stopped))).line.runFraction = 0 := by decide

/-! ### Requests of the delivery port, and of every port -/

/-- The belt of the worked sequence of chapter 8 with set 61003 (FOLD LETTER, ROUTE DELIVER) as head. -/
def beltWith (x : SetState) (atEnd : Bool) (r : Readiness) (s : State) : State :=
  let s := withSets [aSet 61003 x [.fold .letter, .route .deliver]] s
  { s with belt := { Delivery.empty r with queue := [61003], atEnd := atEnd } }

/-- That belt with 61003 offered. -/
def offeredState : State :=
  let s := beltWith .offered true .ready running
  { s with belt := { s.belt with offered := some 61003, offerTimer := some 5000000 } }

/-- The set number 61003. -/
def number61003 : List Byte := [0x4B, 0xEE, 0x00, 0x00]

/-- The set number 61002, on the belt of that sequence and not offered. -/
def number61002 : List Byte := [0x4A, 0xEE, 0x00, 0x00]

/-- Chapter 8, at 6,000 ms: SET READY offers 61003 for 5,000 ms. -/
theorem test_setReady :
    (after .setReady (ask .delivery .setReady [] (beltWith .onBelt true .notReady running))).belt.offered = some 61003 ∧
      (after .setReady (ask .delivery .setReady [] (beltWith .onBelt true .notReady running))).belt.offerTimer =
        some 5000000 := by decide

/-- Chapter 8, at 4,060 ms: SET NOT READY. -/
theorem test_setNotReady :
    (after .setNotReady (ask .delivery .setNotReady [] (beltWith .onBelt false .ready running))).belt.readiness =
      .notReady := by decide

/-- Chapter 8, at 2,300 ms: an ACCEPT of a set on the belt but not offered is WRONG_SET (0Fh). -/
theorem test_accept_wrong_set :
    resultOf .delivery (after .accept (ask .delivery .accept number61002 offeredState)) = some 0x0F := by decide

/-- Chapter 8, at 2,500 ms: an ACCEPT of the offered set delivers it. -/
theorem test_accept :
    (after .accept (ask .delivery .accept number61003 offeredState)).setState 61003 = some .delivered ∧
      (after .accept (ask .delivery .accept number61003 offeredState)).belt.queue = [] := by decide

/-- R148: a REFUSE with code 9 fires the belt gate and gives the set REFUSED and the code. -/
theorem test_refuse :
    ((after .refuse (ask .delivery .refuse (number61003 ++ [9]) offeredState)).findSet 61003).map
        (fun r => (r.cause, r.refuseCode, r.failingStep)) = some (some .refused, some 9, some 2) ∧
      (after .refuse (ask .delivery .refuse (number61003 ++ [9]) offeredState)).beltGateOutput = true := by
  decide

/-- R180: the first byte of the status is the line state, RUNNING coded 1 (R152's order). -/
theorem test_readStatus :
    (dataOf .job (after (.readStatus .job) (ask .job .readStatus [] running))).map (List.take 1) = some [1] := by decide

/-- R169: READ TALLY returns the counters; folds, the eighth, stands in bytes 28 to 31. -/
theorem test_readTally :
    (dataOf .delivery (after (.readTally .delivery) (ask .delivery .readTally [] (counted running)))).map
      (fun b => (b.length, (b.drop 28).take 4)) = some (40, [3, 0, 0, 0]) := by decide +kernel

/-- R61: READ CAPTURE returns severity, lane, row, syndrome, parity-odd and tag with their presence bytes. -/
theorem test_readCapture :
    dataOf .line (after (.readCapture .line) (ask .line .readCapture [] (captured running))) =
      some [1, 1, 0, 1, 5, 0, 0, 0, 1, 21, 1, 1, 1, 5, 0] := by decide +kernel

/-- R179: LINE_FAULT named while the line is FAULTED is pending again at once. -/
theorem test_clearCondition_level :
    (after (.clearCondition .line) (ask .line .clearCondition [1, 0x11]
      (raiseCond .lineFault (.lineCause .guardOpen) faulted))).isPending .lineFault = true := by decide

/-- R179: a code that is no condition of the port is BAD_FIELD (05h). -/
theorem test_clearCondition_bad :
    resultOf .job (after (.clearCondition .job) (ask .job .clearCondition [1, 0x11] running)) = some 0x05 := by decide

/-- R175: a START on the job port is NOT_ALLOWED (12h). -/
theorem test_undefinedRequestKind :
    resultOf .job (after (.undefinedRequestKind .job) (ask .job .start [] stopped)) = some 0x12 := by decide

/-! ### Links -/

/-- The bytes of a frame, each with its stop bit. -/
def sent (kind : Byte) (body : List Byte) : List RxByte :=
  (frameBytes { kind := kind, body := body }).map fun b => { value := b, stop := true }

/-- Table 10-1: START (0Ah) with no body is A6h, length 1, 0Ah and the CRC. -/
theorem test_goodFrame :
    ((after (.goodFrame .line (sent 0x0A [])) (queued .line [] stopped)).port .line).queue =
      [{ kind := 0x0A, body := [], overrun := false }] := by decide +kernel

/-- R173: a length byte of 0 discards the frame and raises LINK_FAULT. -/
theorem test_goodFrame_bad_length :
    (after (.goodFrame .line [{ value := 0xA6, stop := true }, { value := 0, stop := true }])
      (queued .line [] stopped)).isPending .lineLinkFault = true := by decide

/-- s with a frame in progress at port p. -/
def receiving (p : Port) (s : State) : State :=
  let s := queued p [] s
  s.setPort p { s.port p with rx := some { bytes := [2], timer := 1 } }

/-- R173: 10 ms without the last byte. -/
theorem test_frameTimeout :
    ((after (.frameTimeout .delivery) (receiving .delivery stopped)).port .delivery).rx = none := by decide

/-- R170: a port that goes UP sends the notice of what is pending: LINE_FAULT (11h) with GUARD_OPEN (0), twice, as
condition and as top condition. -/
theorem test_linkUp :
    ((after (.linkUp .line) (raiseCond .lineFault (.lineCause .guardOpen) faulted)).port .line).tx =
      [{ kind := 0x81, body := [0x11, 0, 0, 0, 0, 0, 0x11, 0, 0, 0, 0, 0] }] := by decide

/-- R160: a break on the line port faults a RUNNING line. -/
theorem test_linkBreak :
    (after (.linkBreak .line) (queued .line [] running)).line.record.cause = some .lineLinkLost := by decide

/-! ### The web and the read head -/

/-- R23: P wraps. -/
theorem test_encoderStep_wraps :
    (after (.encoderStep .forward) (atPos 16777215 State.reset)).web.position = 0 ∧
      (after (.encoderStep .backward) State.reset).web.position = 16777215 := by decide

/-- Section 2.7, update 2: from 16,777,180 to 64 the raw speed is 100. -/
theorem test_speedUpdate :
    (after .speedUpdate { stopped with web := { stopped.web with position := 64, kept := 16777180 } }).web.speed = 100 := by
  decide

/-- Section 2.7, reverse travel: −20 gives w = 0 and the reverse flag. -/
theorem test_speedUpdate_reverse :
    (after .speedUpdate { stopped with web := { stopped.web with position := 180, kept := 200, speed := 9 } }).web.speed = 0 ∧
      (after .speedUpdate { stopped with web := { stopped.web with position := 180, kept := 200 } }).web.reverse =
        true := by decide

/-- A filler's codeword (Table 3-2: kind 10, the rest 0): cell 3, its check cells 1 and 2, and the parity cell. -/
def fillerCells : Cells := 0x0000000F#32

/-- R49, R66: the first bar on a 1-UP web, a filler at 900, makes a WASTE entry; its gate arrival is 900 + 6,400. -/
theorem test_barEvent :
    ((after (.barEvent .left 900 fillerCells false) (atPos 1000 running)).track.list.map fun e =>
      (e.disposition, e.set, e.gateArrival)) = [(.waste, none, 7300)] := by decide +kernel

/-- R26, R51, R54: a bar at 900 taken at 5,000, the windows about 1,900 and 2,900 passed: two rows close with no bar, and
the lock is lost. -/
theorem test_barEvent_late :
    (after (.barEvent .left 900 fillerCells false) (atPos 5000 running)).reader.state = .hunt ∧
      (after (.barEvent .left 900 fillerCells false) (atPos 5000 running)).line.tally.rowsRead = 3 ∧
      (after (.barEvent .left 900 fillerCells false) (atPos 5000 running)).isPending .lockLost = true := by
  decide +kernel

/-- A sheet before the page gate, of the row at E, with a disposition and a set. -/
def gateSheet (id : Nat) (row : Pos) (d : Disposition) (set : Option Nat) : SheetEntry :=
  { id := id, row := row, order := .first, result := .clean, mark := none, set := set, page := none, disposition := d,
    gateArrival := row + 6400, accArrival := row + 7900, pastGate := false }

/-- A line with sheets before the gate, the gate standing at a side. -/
def beforeTheGate (actual : Disposition) (list : List SheetEntry) (s : State) : State :=
  { s with
    track := { s.track with list := list, nextId := 10 }
    firing := { s.firing with actual := actual, planned := actual } }

/-- s with GUARD open. -/
def opened (s : State) : State := { s with line := { s.line with guard := .opened } }

/-- R101: with GUARD open the gate firing of a filler, at its fire point 6,250, is withheld; the filler goes where the gate
stands, and the plan with it. -/
theorem test_encoderStep_guard :
    (after (.encoderStep .forward) (opened (atPos 6249 { beforeTheGate .accumulate [gateSheet 1 0 .waste none] running with
      firing := { queue := [{ actuator := .gate 1 .waste, target := 6250, firePoint := 6250 }], actual := .accumulate,
                  planned := .waste, knifePulses := 0 } }))).track.list = [gateSheet 1 0 .accumulate none] := by decide

/-! ### The accumulator, the folder and the belt -/

/-- A sheet of set n, page 1, in the Transit List, due at the accumulator at X. -/
def sheet (n : Nat) (due : Pos) : SheetEntry :=
  { id := 3, row := minus due 7900, order := .first, result := .clean, mark := none, set := some n, page := some 1,
    disposition := .accumulate, gateArrival := minus due 1500, accArrival := due, pastGate := true }

/-- A line whose list holds that sheet of an ACTIVE set. -/
def arriving (due : Pos) : State :=
  let s := withSets [aSet 7 .active [.jog, .fold .half, .route .deliver]] (atPos 10000 running)
  { s with track := { s.track with list := [sheet 7 due], nextId := 4 } }

/-- R105: an arrival at the edge of the window, 300 counts early, is collected. -/
theorem test_arrival :
    (after .arrival (arriving 10300)).acc.held = some 7 ∧ (after .arrival (arriving 10300)).track.list = [] := by decide

/-- R105: one count earlier it is a stray sheet. -/
theorem test_arrival_stray : (after .arrival (arriving 10301)).line.record.cause = some .straySheet := by decide

/-- A HELD set in the accumulator, its hold timer running. -/
def heldState : State :=
  let s := inBinOf .complete 7 (withSets [aSet 7 .held [.jog, .hold 30, .fold .half, .route .deliver]] running)
  { s with acc := { s.acc with holdTimer := some 1 } }

/-- R113: the hold timer's expiry: HOLD_EXPIRED at step 2. -/
theorem test_holdTimerExpiry :
    ((after .holdTimerExpiry heldState).findSet 7).map (fun r => (r.state, r.cause, r.failingStep)) =
      some (.rejecting, some .holdExpired, some 2) := by decide

/-- A COLLECTED set whose accumulator steps are done. -/
def readySet (program : List Step) : SetRec := { aSet 7 .collected program with stepsPassed := [.jog] }

/-- A COMPLETE accumulator that holds it. -/
def readyState : State := inBinOf .complete 7 (withSets [readySet [.jog, .fold .half, .route .deliver]] running)

/-- Chapter 6, at 314,916: hand-over. -/
theorem test_handOver :
    (after .handOver readyState).acc.state = .releasing ∧ (after .handOver readyState).setState 7 = some .folding := by decide

/-- A release in flight. -/
def releasing : State :=
  let s := inBinOf .releasing 7 (withSets [aSet 7 .folding [.fold .half, .route .deliver]] running)
  { s with acc := { s.acc with releaseTimeout := some 1 } }

/-- R116: the release timeout is JAM_ACCUMULATOR, and the set takes MISSING_SHEET. -/
theorem test_releaseTimeout :
    (after .releaseTimeout releasing).line.record.cause = some .jamAccumulator ∧
      ((after .releaseTimeout releasing).findSet 7).bind SetRec.cause = some .missingSheet := by decide

/-- A REJECTING set in the accumulator, in a state. -/
def rejectedBin (x : AccState) : State :=
  inBinOf x 7 (withSets [{ aSet 7 .rejecting [.fold .half, .route .deliver] with cause := some .shortSet }] running)

/-- R117: the dump starts. -/
theorem test_dumpStart : (after .dumpStart (rejectedBin .collecting)).dumpOutput = true := by decide

/-- R118, R7: the dump's end diverts the set. -/
theorem test_dumpDone :
    (after .dumpDone (rejectedBin .dumping)).acc.state = .empty ∧
      (after .dumpDone (rejectedBin .dumping)).setState 7 = some .diverted := by decide

/-- A dump in flight, its timeout running. -/
def dumping : State :=
  { rejectedBin .dumping with acc := { (rejectedBin .dumping).acc with dumpTimeout := some 1 } }

/-- R118: the dump timeout is JAM_ACCUMULATOR. -/
theorem test_dumpTimeout : (after .dumpTimeout dumping).line.record.cause = some .jamAccumulator := by decide

/-- A COMPLETE accumulator whose set has the JOG step before it. -/
def toJog : State :=
  inBinOf .complete 7 (withSets [aSet 7 .collected [.jog, .fold .half, .route .deliver]] running)

/-- Chapter 6, at 313,716: the JOG step's full squaring stroke starts. -/
theorem test_jogStrokeStart :
    (after .jogStrokeStart toJog).acc.stroke = some { full := true, squaring := true, jogStep := true } := by decide

/-- A squaring stroke in flight on a SKEWED set whose JOG step it is, the obligation FORCED. -/
def jogging : State :=
  let s := inBinOf .complete 7 (withSets
    [{ aSet 7 .collected [.jog, .fold .half, .route .deliver] with skewed := true }] running)
  { s with
    acc := { s.acc with
      stroke := some { full := true, squaring := true, jogStep := true }, jogTimeout := some 1, obligation := .forced }
    line := { s.line with holds := { HoldSet.none with jogForced := true } } }

/-- Chapter 6, at 314,916: jog done clears SKEWED and passes JOG, and hand-over follows. -/
theorem test_jogDone :
    ((after .jogDone jogging).findSet 7).map (fun r => (r.skewed, r.stepsPassed, r.state)) =
      some (false, [.jog], .folding) := by decide

/-- R119: the jog timeout is JAM_JOGGER. -/
theorem test_jogTimeout : (after .jogTimeout jogging).line.record.cause = some .jamJogger := by decide

/-- A COLLECTING accumulator whose jog interval runs, with an obligation. -/
def interval (o : Obligation) : State :=
  let s := inBinOf .collecting 7 (withSets [aSet 7 .active [.fold .half, .route .deliver]] running)
  { s with acc := { s.acc with jogInterval := some 1, obligation := o } }

/-- Chapter 6, at 318,000: URGENT becomes FORCED and JOG_FORCED is asserted; the default interval is 400 ms. -/
theorem test_jogIntervalExpiry :
    (after .jogIntervalExpiry (interval .urgent)).acc.obligation = .forced ∧
      (after .jogIntervalExpiry (interval .urgent)).acc.jogInterval = some 400000 ∧
      (after .jogIntervalExpiry (interval .urgent)).holdLine = true := by decide

/-- Chapter 6, at 316,000: folder entry. -/
theorem test_folderEntry :
    (after .folderEntry releasing).folder.state = .folding ∧ (after .folderEntry releasing).acc.state = .empty := by decide

/-- A folder with set 7 in it. -/
def inFolderOf (x : FolderState) (state : SetState) : State :=
  let s := withSets [aSet 7 state [.fold .half, .route .deliver]] running
  { s with folder := { s.folder with state := x, set := some 7, timer := some 1 } }

/-- R131: the fold exit puts the set on the belt. -/
theorem test_foldExit :
    (after .foldExit (inFolderOf .folding .folding)).belt.queue = [7] ∧
      (after .foldExit (inFolderOf .folding .folding)).setState 7 = some .onBelt := by decide

/-- R132: the fold timer's expiry: FOLD_JAM at step 1. -/
theorem test_foldTimerExpiry :
    ((after .foldTimerExpiry (inFolderOf .folding .folding)).findSet 7).map (fun r => (r.cause, r.failingStep)) =
      some (some .foldJam, some 1) := by decide

/-- Chapter 8, at 1,800 ms: the belt end offers the head of a READY inserter. -/
theorem test_beltEnd : (after .beltEnd (beltWith .onBelt false .ready running)).isPending .offer = true := by decide

/-- The head's travel timer running. -/
def travelling : State :=
  { beltWith .onBelt false .ready running with
    belt := { (beltWith .onBelt false .ready running).belt with travel := some 1 } }

/-- R140: the belt travel timer's expiry is JAM_BELT with the head's number. -/
theorem test_beltTravelExpiry :
    (after .beltTravelExpiry travelling).line.record =
      { cause := some .jamBelt, set := some 61003, further := false } := by decide

/-- A REJECTING head, with a belt gate stroke wanted or in flight. -/
def gateState (wanted stroke : Bool) (r : Readiness) : State :=
  let s := beltWith .rejecting true r running
  { s with
    belt := { s.belt with strokeWanted := wanted, stroke := stroke, gateTimeout := if stroke then some 1 else none } }

/-- R143: a wanted stroke starts with GUARD closed. -/
theorem test_beltGateStroke : (after .beltGateStroke (gateState true false .ready)).beltGateOutput = true := by decide

/-- Chapter 8, at 11,150 ms: gate done. -/
theorem test_beltGateDone :
    (after .beltGateDone (gateState false true .ready)).belt.queue = [] ∧
      (after .beltGateDone (gateState false true .ready)).setState 61003 = some .diverted := by decide

/-- Chapter 8, a jammed gate: JAM_BELT with 61003. -/
theorem test_beltGateTimeout :
    (after .beltGateTimeout (gateState false true .ready)).line.record.set = some 61003 := by decide

/-- Chapter 8, at 11,000 ms: the offer expires; OFFER_EXPIRED at step 2, WITHDRAWN pending. -/
theorem test_offerTimerExpiry :
    ((after .offerTimerExpiry offeredState).findSet 61003).map (fun r => (r.cause, r.failingStep)) =
        some (some .offerExpired, some 2) ∧
      (after .offerTimerExpiry offeredState).isPending .withdrawn = true := by decide

/-! ### The line -/

/-- R158: GUARD opening faults a RUNNING line. -/
theorem test_guardOpen : (after .guardOpen running).line.record.cause = some .guardOpen := by decide

/-- A belt gate stroke that waits for GUARD. -/
def waitsForGuard : State :=
  { gateState true false .ready with line := { stopped.line with guard := .opened } }

/-- R143, R158: GUARD closing starts the belt gate stroke that waited. -/
theorem test_guardClose : (after .guardClose waitsForGuard).belt.stroke = true := by decide

/-- R166: a warm start keeps P and faults the line with POWER_LOST. -/
theorem test_powerUp_warm :
    (after (.powerUp true true) (atPos 700 running)).web.position = 700 ∧
      (after (.powerUp true true) (atPos 700 running)).line.record.cause = some .powerLost := by decide

/-- R165: a cold start sets P to 0 and the sweep runs. -/
theorem test_powerUp_cold :
    (after (.powerUp false true) (atPos 700 running)).web.position = 0 ∧
      (after (.powerUp false true) (atPos 700 running)).line.sweep = true := by decide

/-- R165: the sweep's completion sets the stop point to P. -/
theorem test_sweepComplete :
    (after (.sweepComplete true) (atPos 12 State.reset)).line.stopPoint = 12 ∧
      (after (.sweepComplete true) (atPos 12 State.reset)).line.sweep = false := by decide

/-! ### Witnesses: for each statement with hypotheses, a state and operands that meet them

A witness is named after its statement. Where a statement has several clauses the witness is their conjunction, or one
theorem for each. -/

/-- s with a command at the front of its queue. -/
def commanded (c : Instr) (s : State) : State := { s with pending := [c] }

/-- A RUNNING line with a set in the accumulator and its next sheet on the way. -/
def working : State :=
  let s := arriving 10300
  { inBinOf .collecting 7 s with pending := [.guardOpen] }

/-- A port with a byte to finish, and one with a frame to finish. -/
def sending (sent : Nat) : State :=
  stopped.setPort .line
    { stopped.port .line with
      link := .up, tx := [{ kind := 0x81, body := [1] }], txSent := sent, txPhase := 976960 }

/-- A request that may be taken; nothing due; a speed update due; the bytes of a frame of 6 within, at the end of a byte and
at its end; and 999 µs of run time. -/
theorem witness_StepOnAnEmptyQueue :
    ((ask .line .start [] stopped).pending = [] ∧ takings (ask .line .start [] stopped) = [.start]) ∧
      (stopped.pending = [] ∧ takings stopped = [] ∧ dueCommands stopped.ticked = []) ∧
      (takings { stopped with web := { stopped.web with toUpdate := 1 } } = [] ∧
        dueCommands (State.ticked { stopped with web := { stopped.web with toUpdate := 1 } }) = [.speedUpdate]) ∧
      ((sending 0).port .line).tx ≠ [] ∧ 1000000 ≤ ((sending 0).port .line).txPhase + 23040 ∧
      (frameBytes { kind := 0x81, body := [1] }).length = 6 ∧ 0 + 1 < 6 ∧ 6 ≤ 5 + 1 ∧
      ((sending 5).ticked.port .line).tx = [] ∧ running.permit = true ∧
      (State.ticked { running with line := { running.line with runFraction := 999 } }).line.tally.runTime = 1 := by
  decide

theorem witness_LineStaysSound : ∃ t, LineOk working.line ∧ step working = .next t :=
  ⟨_, ⟨by decide, by decide, by decide, by decide⟩, rfl⟩

theorem witness_PortsStayInBounds : ∃ t, (∀ p, PortOk p (working.port p)) ∧ step working = .next t :=
  ⟨_, fun p => by cases p <;> exact ⟨by decide, fun _ => ⟨rfl, rfl, rfl⟩, by decide, by decide⟩, rfl⟩

theorem witness_BeltAndFolderHoldAtMostThree : ∃ t, BeltOk (commanded .foldExit (inFolderOf .folding .folding)) ∧
    step (commanded .foldExit (inFolderOf .folding .folding)) = .next t :=
  ⟨_, ⟨by decide, by decide⟩, rfl⟩

theorem witness_JogForcedFollowsTheObligation : ∃ t, JogOk (commanded .jogDone jogging) ∧
    step (commanded .jogDone jogging) = .next t :=
  ⟨_, by unfold JogOk; decide, rfl⟩

theorem tableOk_one (r : SetRec) (s : State) : TableOk (withSets [r] s).table :=
  ⟨by simp [withSets], by simp [withSets], by simp [withSets]⟩

theorem witness_TableStaysDistinct : ∃ t, TableOk (commanded .loadSet (ask .job .loadSet body70004 stopped)).table ∧
    step (commanded .loadSet (ask .job .loadSet body70004 stopped)) = .next t :=
  ⟨_, ⟨by decide, by decide, by decide⟩, rfl⟩

/-- Two DIVERTED sets of one priority, the older still to be reported with the younger; a reported one before them; and one of
higher priority, first in the Reprint Queue and last to end. -/
def outcomes : State :=
  let s := withSets
    [set70002 true, { set70002 false with number := 70003 }, { set70002 false with number := 70004 },
     { set70002 false with number := 70005, priority := 7 }] stopped
  { s with
    table := { s.table with
      completion := [70003, 70004, 70005]
      reprint := [70005, 70002, 70003, 70004] } }

theorem witness_OutcomeQueuesStayInOrder : ∃ t,
    OutcomesOk (commanded .takeCompletion (ask .job .takeCompletion [] outcomes)).table ∧
    step (commanded .takeCompletion (ask .job .takeCompletion [] outcomes)) = .next t ∧
    t.table.completion = [70004, 70005] :=
  ⟨_, ⟨⟨by decide, by decide, by decide⟩, by decide, by decide, by decide, by decide, by decide, by decide,
    by unfold SetTable.reprintsBefore; decide⟩, rfl, by decide⟩

theorem witness_CapacitiesHold : ∃ t, RoomOk working ∧ step working = .next t :=
  ⟨_, ⟨by decide, by decide, by decide, by decide⟩, rfl⟩

theorem witness_FirstCauseStays : ∃ t r r', TableOk (commanded .guardOpen (rejectedBin .collecting)).table ∧
    step (commanded .guardOpen (rejectedBin .collecting)) = .next t ∧
    r ∈ (commanded .guardOpen (rejectedBin .collecting)).table.records ∧ r.cause = some .shortSet ∧
    r' ∈ t.table.records ∧ r'.number = r.number :=
  ⟨_, { aSet 7 .rejecting [.fold .half, .route .deliver] with cause := some .shortSet },
    { aSet 7 .rejecting [.fold .half, .route .deliver] with cause := some .shortSet }, tableOk_one _ _, rfl, by decide, rfl,
    by decide, rfl⟩

/-- FAULTED is left; RUNNING is entered; FAULTED stays. -/
theorem witness_LineStateGates :
    (faulted.line.state = .faulted ∧ (after .purge (ask .line .purge [] faulted)).line.state ≠ .faulted) ∧
      (stopped.line.state ≠ .running ∧ (after .start (ask .line .start [] stopped)).line.state = .running) ∧
      (∃ t, exec .jogTimeout { jogging with line := faulted.line } = .next t ∧ t.line.state = .faulted ∧
        t.line.record.further = true) :=
  ⟨by decide, by decide, _, rfl, by decide, by decide⟩

theorem witness_WhoMayChangeWhat : ∃ t r r', (∀ closed, Instr.holdTimerExpiry ≠ .powerUp false closed) ∧
    TableOk heldState.table ∧ exec .holdTimerExpiry heldState = .next t ∧ r ∈ heldState.table.records ∧
    r' ∈ t.table.records ∧ r'.number = r.number ∧ r' ≠ r :=
  ⟨_, aSet 7 .held [.jog, .hold 30, .fold .half, .route .deliver],
    { aSet 7 .rejecting [.jog, .hold 30, .fold .half, .route .deliver] with
      cause := some .holdExpired, failingStep := some 2 },
    by decide, tableOk_one _ _, rfl, by decide, by decide, rfl, by decide⟩

/-- n requests. -/
def requests (n : Nat) : List Request := List.replicate n { kind := 0x14, body := [], overrun := false }

/-- A body of the greatest length, with three requests waiting and with four. -/
theorem witness_FrameReceivedIsTheFrameSent :
    (List.replicate 119 (0 : Byte)).length ≤ 119 ∧
      (((queued .job (requests 3) stopped).port .job).link = .up ∧
        ((queued .job (requests 3) stopped).port .job).rx = none ∧
        ((queued .job (requests 3) stopped).port .job).queue.length < 4) ∧
      (((queued .job (requests 4) stopped).port .job).link = .up ∧
        ((queued .job (requests 4) stopped).port .job).rx = none ∧
        4 ≤ ((queued .job (requests 4) stopped).port .job).queue.length) :=
  ⟨by simp, by decide, by decide⟩

theorem witness_OneWrongCellIsCorrectedTwoAreDetected :
    syndrome printed = 0 ∧ parityOdd printed = false ∧ 0 < 32 ∧ 31 < 32 ∧ (0 : Nat) ≠ 31 := by decide

/-- A line with one knife firing queued. -/
def withFiring (f : Firing) (s : State) : State := { s with firing := { s.firing with queue := [f] } }

/-- The firing of section 2.7: target 4,682. -/
def knifeFiring (firePoint : Pos) : Firing := { actuator := .knife 16777000, target := 4682, firePoint := firePoint }

/-- A firing made ahead of P; and a queued knife firing that a speed update leaves ahead of P. -/
theorem witness_LeadFollowsTheSpeed :
    20000 ≤ 20000 ∧ 255 ≤ 255 ∧
      (running.firing.queue.length < 32 ∧ ahead running.web.position (firePointOf running (.knife 7) 4682) = true) ∧
      ∃ t, (withFiring (knifeFiring 4594) stopped).line.sweep = false ∧
        exec .speedUpdate (withFiring (knifeFiring 4594) stopped) = .next t ∧
        knifeFiring 4594 ∈ (withFiring (knifeFiring 4594) stopped).firing.queue ∧
        (knifeFiring 4594).actuator = .knife 16777000 ∧
        ahead t.web.position (firePointOf t (knifeFiring 4594).actuator (knifeFiring 4594).target) = true :=
  ⟨by decide, by decide, by decide, _, rfl, rfl, by decide, rfl, by decide⟩

theorem witness_ClearanceCoversTheStroke :
    100000 ≤ 100000 ∧ 255 ≤ 255 ∧ 1000 ≤ 1000 ∧ 10 ≤ stopped.line.geometry.fullJog ∧
      stopped.line.geometry.fullJog ≤ 100 := by decide

/-- A request marked overrun; a request during the sweep; a request of no kind of its port. -/
theorem witness_PortAnswersBeforeTheRule :
    (RequestKind.allowedOn .start .line = true ∧
      Waits .line { kind := RequestKind.start.code, body := [], overrun := true }
        (queued .line [{ kind := RequestKind.start.code, body := [], overrun := true }] stopped)) ∧
      (Waits .line { kind := RequestKind.start.code, body := [], overrun := false } (ask .line .start [] State.reset) ∧
        (ask .line .start [] State.reset).line.sweep = true ∧ RequestKind.start ≠ .readStatus) ∧
      (Waits .job { kind := RequestKind.start.code, body := [], overrun := false } (ask .job .start [] stopped) ∧
        requestKindOn .job RequestKind.start.code = none) :=
  ⟨⟨by decide, rfl, rfl, rfl⟩, ⟨waits_ask .line .start [] _ rfl, by decide, by decide⟩, waits_ask .job .start [] _ rfl,
    by decide⟩

theorem witness_RefusedRequestChangesNothing : Asks .line .stop [] (ask .line .stop [] stopped) :=
  asks_ask .line .stop [] _ rfl rfl rfl

/-- The three reading requests of every port, here the delivery port, and QUERY SET of an unknown and of a known set. -/
theorem witness_ReadingRequestsReport :
    Asks .delivery .readStatus [] (ask .delivery .readStatus [] stopped) ∧
      (Waits .delivery { kind := RequestKind.readStatus.code, body := [], overrun := false }
          (ask .delivery .readStatus [] { stopped with line := { stopped.line with sweep := true } }) ∧
        (ask .delivery .readStatus [] { stopped with line := { stopped.line with sweep := true } }).line.sweep = true) ∧
      Asks .delivery .readTally [] (ask .delivery .readTally [] stopped) ∧
      Asks .delivery .readCapture [] (ask .delivery .readCapture [] stopped) ∧
      parseSetNumber number70004 = some 70004 ∧
      (Asks .job .querySet number70004 (ask .job .querySet number70004 stopped) ∧
        (ask .job .querySet number70004 stopped).findSet 70004 = none) ∧
      (Asks .job .querySet number70004 (ask .job .querySet number70004 (withSets [set70004] stopped)) ∧
        (ask .job .querySet number70004 (withSets [set70004] stopped)).findSet 70004 = some set70004) :=
  ⟨asks_ask _ _ _ _ rfl rfl rfl, ⟨waits_ask _ _ _ _ rfl, rfl⟩, asks_ask _ _ _ _ rfl rfl rfl,
    asks_ask _ _ _ _ rfl rfl rfl, by decide, ⟨asks_ask _ _ _ _ rfl rfl rfl, by decide⟩, asks_ask _ _ _ _ rfl rfl rfl, by decide⟩

theorem witness_LoadingRequestsInstall :
    (Asks .job .loadProfile profileBody (ask .job .loadProfile profileBody stopped) ∧
      (ask .job .loadProfile profileBody stopped).stationBusy = false ∧
      (ask .job .loadProfile profileBody stopped).line.state ≠ .running ∧
      (∀ r ∈ (ask .job .loadProfile profileBody stopped).table.records, r.state.inMachine = false) ∧
      parseProfile profileBody = some (profile2Up, []) ∧ profile2Up.mergeOffset < profile2Up.formLength) ∧
    (Asks .line .loadGeometry geometryBody (ask .line .loadGeometry geometryBody stopped) ∧
      (ask .line .loadGeometry geometryBody stopped).stationBusy = false ∧
      (ask .line .loadGeometry geometryBody stopped).line.state ≠ .running ∧
      (∀ r ∈ (ask .line .loadGeometry geometryBody stopped).table.records, r.state.inMachine = false) ∧
      parseGeometry geometryBody = some [{ code := 11, value := 45 }] ∧
      geometryDisorder (mergeGeometry stopped.line.geometry [{ code := 11, value := 45 }]) = none) :=
  ⟨⟨asks_ask _ _ _ _ rfl rfl rfl, by decide, by decide, by decide, by decide +kernel, by decide⟩,
    asks_ask _ _ _ _ rfl rfl rfl, by decide, by decide, by decide, by decide, by decide⟩

theorem witness_LoadSetCreatesARecord : ∃ d, Asks .job .loadSet body70004 (ask .job .loadSet body70004 stopped) ∧
    (ask .job .loadSet body70004 stopped).table.records.length < 64 ∧ parseDescriptor body70004 = some d ∧
    (ask .job .loadSet body70004 stopped).findSet d.number = none ∧
    (ask .job .loadSet body70004 stopped).findTag d.record.tag = none ∧ programFault d.pages d.steps = none :=
  ⟨_, asks_ask _ _ _ _ rfl rfl rfl, by decide, rfl, by decide, by decide, by decide⟩

theorem witness_AmendSetMerges : ∃ raw a,
    Asks .job .amendSet amendFold (ask .job .amendSet amendFold (withSets [set70004] stopped)) ∧
      4 ≤ amendFold.length ∧
      (ask .job .amendSet amendFold (withSets [set70004] stopped)).findSet (leNat (amendFold.take 4)) = some set70004 ∧
      parseAmendment (amendFold.drop 4) = some raw ∧ raw.read = some a ∧ a.wrongState set70004 = false ∧
      programFault (a.merge set70004).pages ((a.merge set70004).program.map some) = none ∧
      set70004.state ≠ .collected :=
  ⟨{ priority := none, pages := some 10, fold := some 1, hold := none, route := none },
    { priority := none, pages := some 10, fold := some .half, hold := none, route := none },
    asks_ask _ _ _ _ rfl rfl rfl, by decide, by decide, by decide, by decide, by decide, by decide, by decide⟩

/-- CANCEL SET of a set in a state. -/
def cancelling (x : SetState) : State :=
  ask .job .cancelSet number70004 (withSets [{ set70004 with state := x }] stopped)

/-- A PENDING set, one in the machine, a terminal one, and none. -/
theorem witness_CancelSetEndsAPendingSet :
    (∀ x, Asks .job .cancelSet number70004 (cancelling x)) ∧ parseSetNumber number70004 = some 70004 ∧
      (∀ x, (cancelling x).findSet 70004 = some { set70004 with state := x }) ∧
      Asks .job .cancelSet number70004 (ask .job .cancelSet number70004 stopped) ∧
      (ask .job .cancelSet number70004 stopped).findSet 70004 = none :=
  ⟨fun _ => asks_ask _ _ _ _ rfl rfl rfl, by decide, fun _ => rfl, asks_ask _ _ _ _ rfl rfl rfl, by decide⟩

/-- A PENDING set; and a HELD set in the accumulator, number 7. -/
theorem witness_ReleaseSetEndsAHold :
    (Asks .job .releaseSet number70004 (ask .job .releaseSet number70004 (withSets [set70004] stopped)) ∧
      parseSetNumber number70004 = some 70004 ∧
      (ask .job .releaseSet number70004 (withSets [set70004] stopped)).findSet 70004 = some set70004 ∧
      (holdOf set70004.program).isSome ∧ set70004.cause ≠ some .holdExpired ∧ set70004.preReleasable = true) ∧
    (∃ r, Asks .job .releaseSet [7, 0, 0, 0] (ask .job .releaseSet [7, 0, 0, 0] heldState) ∧
      parseSetNumber [7, 0, 0, 0] = some 7 ∧
      (ask .job .releaseSet [7, 0, 0, 0] heldState).findSet 7 = some r ∧ (holdOf r.program).isSome ∧ r.cause = none ∧
      r.state = .held ∧ (ask .job .releaseSet [7, 0, 0, 0] heldState).acc.held = some 7) :=
  ⟨⟨asks_ask _ _ _ _ rfl rfl rfl, by decide, by decide, by decide, by decide, by decide⟩, _,
    asks_ask _ _ _ _ rfl rfl rfl, by decide, rfl, by decide, by decide, by decide, by decide⟩

/-- Empty lists; and 70002 at the head of both, reported or not, and of one. -/
theorem witness_CollectingRequestsReturnTheHead :
    (Asks .job .takeCompletion [] (ask .job .takeCompletion [] stopped) ∧ stopped.table.completion = [] ∧
      Asks .job .takeReprint [] (ask .job .takeReprint [] stopped) ∧ stopped.table.reprint = []) ∧
    (∀ l b, Asks .job .takeCompletion [] (ask .job .takeCompletion [] (collected [70002] l b)) ∧
      (ask .job .takeCompletion [] (collected [70002] l b)).findSet 70002 = some (set70002 b) ∧
      (ask .job .takeCompletion [] (collected [70002] l b)).table.completion = 70002 :: []) ∧
    (∀ b, Asks .job .takeReprint [] (ask .job .takeReprint [] (collected [] [70002] b)) ∧
      (ask .job .takeReprint [] (collected [] [70002] b)).findSet 70002 = some (set70002 b) ∧
      (ask .job .takeReprint [] (collected [] [70002] b)).table.reprint = 70002 :: [] ∧ 70002 ∉ ([] : List Nat)) :=
  ⟨⟨asks_ask _ _ _ _ rfl rfl rfl, rfl, asks_ask _ _ _ _ rfl rfl rfl, rfl⟩,
    fun _ _ => ⟨asks_ask _ _ _ _ rfl rfl rfl, rfl, rfl⟩,
    fun _ => ⟨asks_ask _ _ _ _ rfl rfl rfl, rfl, rfl, by decide⟩⟩

/-- s with TRACK_FULL standing and the reader in a state. -/
def heldBack (x : ReaderState) (s : State) : State :=
  { s with
    line := { s.line with holds := { HoldSet.none with trackFull := true } }
    reader := { s.reader with state := x } }

/-- In HUNT and LOCKED, with a hold cause standing. -/
theorem witness_StartGrantsTheRun : ∀ x, Asks .line .start [] (ask .line .start [] (heldBack x stopped)) ∧
    (heldBack x stopped).table.profileLoaded = true ∧ (heldBack x stopped).line.geometryLoaded = true ∧
    (heldBack x stopped).line.guard = .closed ∧ (heldBack x stopped).line.state = .stopped ∧
    (heldBack x stopped).reader.state = x ∧ (heldBack x stopped).line.holds ≠ HoldSet.none :=
  fun _ => ⟨asks_ask _ _ _ _ rfl rfl rfl, rfl, rfl, rfl, rfl, rfl, fun h => by cases h⟩

/-- RUNNING; FAULTED; and the sweep. -/
theorem witness_StopKeepsTheContents :
    (Asks .line .stop [] (ask .line .stop [] running) ∧ (ask .line .stop [] running).line.state = .running) ∧
      (Asks .line .stop [] (ask .line .stop [] faulted) ∧ (ask .line .stop [] faulted).line.state ≠ .running) ∧
      (Waits .line { kind := RequestKind.stop.code, body := [], overrun := false } (ask .line .stop [] State.reset) ∧
        (ask .line .stop [] State.reset).line.sweep = true) :=
  ⟨⟨asks_ask _ _ _ _ rfl rfl rfl, rfl⟩, ⟨asks_ask _ _ _ _ rfl rfl rfl, by decide⟩, waits_ask _ _ _ _ rfl, rfl⟩

/-- A FAULTED line with a set on the belt. -/
def faultedBelt : State := withSets [aSet 7 .onBelt [.route .deliver]] faulted

/-- The same with the set offered. -/
def faultedOffer : State :=
  let s := withSets [aSet 7 .offered [.route .deliver]] faulted
  { s with belt := { s.belt with queue := [7], atEnd := true, offered := some 7, offerTimer := some 1 } }

theorem witness_PurgeLeavesACleanLine : Asks .line .purge [] (ask .line .purge [] faultedOffer) ∧
    (ask .line .purge [] faultedOffer).line.state = .faulted ∧ (ask .line .purge [] faultedOffer).stationBusy = false ∧
    (ask .line .purge [] faultedOffer).web.speed = 0 ∧ TableOk (ask .line .purge [] faultedOffer).table ∧
    aSet 7 .offered [.route .deliver] ∈ (ask .line .purge [] faultedOffer).table.records ∧
    (ask .line .purge [] faultedOffer).line.tally.setsDiverted ≤ tallyMax ∧
    (ask .line .purge [] faultedOffer).belt.offered = some 7 :=
  ⟨asks_ask _ _ _ _ rfl rfl rfl, rfl, by decide, rfl, tableOk_one _ _, by decide, by decide, rfl⟩

/-- Before and in FAULTED. -/
theorem witness_ResetLineAbandonsTheMachine :
    (Asks .line .resetLine [] (ask .line .resetLine [] running) ∧ running.line.state ≠ .faulted) ∧
      (Asks .line .resetLine [] (ask .line .resetLine [] faultedBelt) ∧ faultedBelt.line.state = .faulted) :=
  ⟨⟨asks_ask _ _ _ _ rfl rfl rfl, by decide⟩, asks_ask _ _ _ _ rfl rfl rfl, rfl⟩

theorem witness_ClearingRequestsClear :
    Asks .line .clearCapture [] (ask .line .clearCapture [] (captured stopped)) ∧
      Asks .line .clearTally [] (ask .line .clearTally [] (counted stopped)) :=
  ⟨asks_ask _ _ _ _ rfl rfl rfl, asks_ask _ _ _ _ rfl rfl rfl⟩

/-- SET NOT READY; SET READY when READY, with no head at the end, and with a head that waits there. -/
theorem witness_ReadinessRequestsSetReadiness :
    Asks .delivery .setNotReady [] (ask .delivery .setNotReady [] offeredState) ∧
      (∀ x e r, Asks .delivery .setReady [] (ask .delivery .setReady [] (beltWith x e r running))) ∧
      (beltWith .onBelt true .ready running).belt.readiness = .ready ∧
      ((beltWith .onBelt false .notReady running).belt.readiness = .notReady ∧
        (beltWith .onBelt false .notReady running).belt.atEnd = false) ∧
      ((beltWith .onBelt true .notReady running).belt.readiness = .notReady ∧
        (beltWith .onBelt true .notReady running).belt.queue = [61003] ∧
        (beltWith .onBelt true .notReady running).belt.atEnd = true ∧
        (beltWith .onBelt true .notReady running).setState 61003 = some .onBelt) :=
  ⟨asks_ask _ _ _ _ rfl rfl rfl, fun _ _ _ => asks_ask _ _ _ _ rfl rfl rfl, by decide, by decide, by decide⟩

/-- An ACCEPT; and a REFUSE with the largest refuse code, GUARD closed and open. -/
theorem witness_OfferIsAnswered :
    (∃ r, Asks .delivery .accept number61003 (ask .delivery .accept number61003 offeredState) ∧
      parseSetNumber number61003 = some 61003 ∧
      (ask .delivery .accept number61003 offeredState).belt.offered = some 61003 ∧
      (ask .delivery .accept number61003 offeredState).findSet 61003 = some r ∧ r.state.terminal = false) ∧
    ∀ g, ∃ r,
      Asks .delivery .refuse (number61003 ++ [255])
        (ask .delivery .refuse (number61003 ++ [255])
          { offeredState with line := { offeredState.line with guard := g } }) ∧
      parseRefuse (number61003 ++ [255]) = some (61003, 255) ∧ offeredState.belt.offered = some 61003 ∧
      offeredState.belt.queue.head? = some 61003 ∧ offeredState.findSet 61003 = some r ∧ r.state = .offered ∧
      r.cause = none ∧ NoneToTurn 61003 offeredState ∧ offeredState.belt.stroke = false :=
  ⟨⟨_, asks_ask _ _ _ _ rfl rfl rfl, by decide, rfl, rfl, rfl⟩,
    fun _ => ⟨_, asks_ask _ _ _ _ rfl rfl rfl, by decide, rfl, rfl, rfl, rfl, rfl, none_in_nil rfl, rfl⟩⟩

/-- A code that is none of the port's, the empty list, and a level condition of it. -/
theorem witness_ClearConditionClears :
    (∀ body, Asks .line .clearCondition body (ask .line .clearCondition body faulted)) ∧
      (parseClear [1, 0x21] = some [0x21] ∧ namedConds .line [0x21] = none) ∧
      (parseClear [0] = some [] ∧ namedConds .line [] = some []) ∧
      (parseClear [1, 0x11] = some [0x11] ∧ namedConds .line [0x11] = some [.lineFault]) :=
  ⟨fun _ => asks_ask _ _ _ _ rfl rfl rfl, by decide, by decide, by decide⟩

theorem witness_LinkUpAndFrameTimeout :
    (stopped.port .line).link = .down ∧
      ((receiving .delivery stopped).port .delivery).rx = some { bytes := [2], timer := 1 } := by decide

/-- On each port, with the line RUNNING and not. -/
theorem witness_LinkBreakEmptiesThePort :
    (∀ p s, ((queued p [] s).port p).link = .up) ∧ (queued .line [] running).line.state = .running ∧
      (queued .line [] stopped).line.state ≠ .running :=
  ⟨fun p _ => by cases p <;> rfl, by decide, by decide⟩

theorem witness_EncoderStepCounts : State.reset.line.sweep = true := by decide

/-- A gate firing for sheet 1, whose disposition the gate does not stand at. -/
def gateFiring (d : Disposition) (firePoint : Pos) : Firing :=
  { actuator := .gate 1 d, target := 6250, firePoint := firePoint }

/-- The side at which the gate stands for it. -/
def otherSide : Disposition → Disposition
  | .waste => .accumulate
  | .accumulate => .waste

/-- One count before its fire point, with a knife firing behind it; the sheet alone before the gate. -/
def gateDue (d : Disposition) : State :=
  let s := atPos 6249 (beforeTheGate (otherSide d) [gateSheet 1 0 d none] running)
  { s with
    firing := { s.firing with queue := [gateFiring d 6250, knifeFiring 9000], planned := d }
    line := { s.line with stopPoint := 6249 } }

/-- The knife and the gate, with GUARD closed and open. -/
theorem witness_FiringsFireAtTheirFirePoints :
    ∀ g, (({ atPos 4593 (withFiring (knifeFiring 4594) running) with
            line := { running.line with guard := g, stopPoint := 4593 } } : State).line.sweep = false ∧
        (knifeFiring 4594).firePoint = 4593 + 1 ∧ (knifeFiring 4594).actuator = .knife 16777000 ∧
        dueWatches (movePosition .forward { atPos 4593 (withFiring (knifeFiring 4594) running) with
            line := { running.line with guard := g, stopPoint := 4593 } }) =
          [.firePoint (.knife 16777000) 4682] ∧ running.line.state ≠ .faulted) ∧
      ∀ d, (gateDue d).line.sweep = false ∧ (gateDue d).firing.queue = gateFiring d 6250 :: [knifeFiring 9000] ∧
        (gateFiring d 6250).firePoint = (gateDue d).web.position + 1 ∧
        (∀ x ∈ [knifeFiring 9000], ahead ((gateDue d).web.position + 1) x.firePoint = true) ∧
        dueWatches (movePosition .forward { gateDue d with line := { (gateDue d).line with guard := g } }) =
          [.firePoint (gateFiring d 6250).actuator (gateFiring d 6250).target] ∧
        ((gateDue d).track.list.map SheetEntry.id).Nodup ∧ (gateDue d).findSheet 1 = some (gateSheet 1 0 d none) ∧
        (gateSheet 1 0 d none).pastGate = false ∧ (gateSheet 1 0 d none).set = none ∧
        ∀ x ∈ (gateDue d).track.list, x.pastGate = false → x.id ≠ 1 → x.disposition = (gateDue d).firing.actual :=
  fun g => by
    cases g <;>
      exact ⟨by decide, fun d => by cases d <;> exact ⟨rfl, rfl, by decide, by decide, by decide, by decide, rfl, rfl, rfl,
        by decide⟩⟩

/-- A standing web at 5,000, one firing queued, and a sheet of an ACTIVE set before the gate. -/
def lateState (f : Firing) (d : Disposition) : State :=
  let s := beforeTheGate (otherSide d) [gateSheet 1 0 d (some 7)]
    (withSets [aSet 7 .active [.fold .half, .route .deliver]] running)
  { s with
    web := { s.web with position := 5000, kept := 5000 }
    firing := { s.firing with queue := [f] } }

/-- The knife at its late tolerance of 20 and above it, the gate at its of 60 and above it; with no lead at rest the fire
point is the target. -/
theorem witness_LateFiringsFireOrAreWithheld :
    (∀ x ∈ [((4980 : Pos), (20 : Int)), (4979, 21)],
      (lateState { knifeFiring 4682 with target := x.1 } .waste).line.sweep = false ∧
      x.2 = signedDist (firePointOf { lateState { knifeFiring 4682 with target := x.1 } .waste with
          web := updateSpeed (lateState { knifeFiring 4682 with target := x.1 } .waste).web } (.knife 16777000) x.1)
        (lateState { knifeFiring 4682 with target := x.1 } .waste).web.position ∧ 0 < x.2) ∧
    (20 : Int) ≤ running.line.geometry.knifeLateTol ∧ (running.line.geometry.knifeLateTol : Int) < 21 ∧
    (∀ x ∈ [((4940 : Pos), (60 : Int)), (4939, 61)], ∀ d ∈ [Disposition.waste, .accumulate],
      (lateState { gateFiring d 0 with target := x.1 } d).line.sweep = false ∧
      x.2 = signedDist (firePointOf { lateState { gateFiring d 0 with target := x.1 } d with
          web := updateSpeed (lateState { gateFiring d 0 with target := x.1 } d).web } (.gate 1 d) x.1)
        (lateState { gateFiring d 0 with target := x.1 } d).web.position ∧ 0 < x.2) ∧
    (60 : Int) ≤ running.line.geometry.gateLateTol ∧ (running.line.geometry.gateLateTol : Int) < 61 ∧
    ∀ d ∈ [Disposition.waste, .accumulate],
      ((lateState (gateFiring d 0) d).track.list.map SheetEntry.id).Nodup ∧
      (lateState (gateFiring d 0) d).findSheet 1 = some (gateSheet 1 0 d (some 7)) ∧
      (gateSheet 1 0 d (some 7)).pastGate = false ∧ d ≠ (lateState (gateFiring d 0) d).firing.actual ∧
      (∀ y ∈ (lateState (gateFiring d 0) d).track.list, y.pastGate = false → y.id ≠ 1 →
        y.disposition = (lateState (gateFiring d 0) d).firing.actual) ∧
      ∃ r, (lateState (gateFiring d 0) d).findSet 7 = some r ∧ r.state.mayFail = true ∧ r.cause = none :=
  ⟨by decide, by decide, by decide, by decide, by decide, by decide, fun d _ => by
    cases d <;> exact ⟨by decide, by decide, rfl, by decide, by decide, aSet 7 .active [.fold .half, .route .deliver],
      by decide⟩⟩

/-- Two rows before the gate, the later made at the event, a knife firing queued. -/
def planState (second : Pos) (a b : Disposition) (actual : Disposition) : State :=
  let s := beforeTheGate actual [gateSheet 1 0 a (some 7), gateSheet 2 second b none]
    (withSets [aSet 7 .active [.fold .half, .route .deliver]] running)
  { s with
    firing := { s.firing with queue := [knifeFiring 4594] }
    ev := { Event.none with made := [2] } }

/-- Rows one form apart; and two rows at one place, with the gate at either side. -/
theorem witness_GatePlanFollowsTheDispositions :
    (((planState 3000 .accumulate .waste .waste).track.list.map SheetEntry.id).Nodup ∧
      (∀ e ∈ (planState 3000 .accumulate .waste .waste).track.list, e.pastGate = false →
        ahead (planState 3000 .accumulate .waste .waste).web.position
          (firePointOf (planState 3000 .accumulate .waste .waste) (.gate e.id e.disposition)
            (gateTarget (planState 3000 .accumulate .waste .waste) e)) = true) ∧
      ((planState 3000 .accumulate .waste .waste).track.list.map
        (gateTarget (planState 3000 .accumulate .waste .waste))).Nodup ∧
      (planState 3000 .accumulate .waste .waste).firing.queue.length + 2 ≤ 32 ∧
      ((planState 3000 .accumulate .waste .waste).track.list.filter fun e =>
        (planState 3000 .accumulate .waste .waste).ev.made.contains e.id) = [gateSheet 2 3000 .waste none] ∧
      ∀ f ∈ (planState 3000 .accumulate .waste .waste).firing.queue, f = knifeFiring 4594) ∧
    ∀ actual ∈ [Disposition.waste, .accumulate], ∃ r,
      ((planState 0 .accumulate .waste actual).track.list.filter fun x => !x.pastGate) =
        [gateSheet 1 0 .accumulate (some 7), gateSheet 2 0 .waste none] ∧
      gateTarget (planState 0 .accumulate .waste actual) (gateSheet 1 0 .accumulate (some 7)) =
        gateTarget (planState 0 .accumulate .waste actual) (gateSheet 2 0 .waste none) ∧
      (planState 0 .accumulate .waste actual).findSet 7 = some r ∧ r.state.mayFail = true ∧ r.cause = none :=
  ⟨by decide, fun a _ => ⟨aSet 7 .active [.fold .half, .route .deliver], by cases a <;> decide⟩⟩

/-- The raw speeds at the ends of the three ranges: −1, 0, 255 and 256. -/
theorem witness_SpeedUpdateSamplesTheSpeed :
    signedDist 0 (-1 : Pos) < 0 ∧ 0 ≤ signedDist 0 (0 : Pos) ∧ signedDist 0 (255 : Pos) ≤ 255 ∧
      255 < signedDist 0 (256 : Pos) ∧ State.reset.line.sweep = true := by decide

/-- The sweep; no profile; the RIGHT lane of a 1-UP web; a bar that locks on each layout, at the last P that its limit
allows; and bars whose rows P has passed. -/
theorem witness_BarEventLocksTheReader :
    State.reset.line.sweep = true ∧ { running with table := State.reset.table }.table.profileLoaded = false ∧
      running.table.profile.layout = .oneUp ∧
      (running.line.sweep = false ∧ running.table.profileLoaded = true ∧ running.reader.state = .hunt) ∧
      { running with table := { running.table with profile := profile2Up } }.table.profile.layout = .twoUp ∧
      passed 940 (plus (900 : Pos) profile2Up.skew) = false ∧ passed 941 (plus (900 : Pos) profile2Up.skew) = true ∧
      passed 1930 (plus (plus (900 : Pos) running.table.profile.formLength) running.table.profile.tol) = false ∧
      passed 5000 (plus (plus (900 : Pos) running.table.profile.formLength) running.table.profile.tol) = true ∧
      passed 5000 (plus (plus (plus (900 : Pos) running.table.profile.formLength) running.table.profile.formLength)
        running.table.profile.tol) = true := by decide

/-- LOCKED on a reference of 900, P one count short of the far edge of the open row (the far edge of the first row is 940,
of a later row 1,930). -/
def lockedOn (layout : Layout) (r : OpenRow) (miss : Nat) (severity : Severity) : State :=
  let s := atPos (if r.first then 940 else 1930) running
  { s with
    table := { s.table with profile := { s.table.profile with layout := layout } }
    reader := { s.reader with
      state := .locked, openRow := some r, rowRef := some 900, miss := miss
      capture := { s.reader.capture with severity := severity } } }

/-- A bar of the LEFT lane at 1,905. -/
def leftSeen : OpenRow :=
  { first := false, left := some { position := 1905, decoded := Decoded.unread .uncorrectable }, right := none }

/-- Every layout; a lane seen, a bar one count outside; a bar at the window's edge that leaves the row open and one that
closes it; the severities 1, 2 and none against each that is held; and the steps that pass the far edge. -/
theorem witness_LockedReaderReadsRowByRow :
    (∀ layout severity, (lockedOn layout nextRow 0 severity).line.sweep = false ∧
      (lockedOn layout nextRow 0 severity).table.profileLoaded = true ∧
      (lockedOn layout nextRow 0 severity).reader.state = .locked ∧
      (lockedOn layout nextRow 0 severity).reader.openRow = some nextRow ∧
      (lockedOn layout nextRow 0 severity).reader.rowRef = some 900 ∧
      (lockedOn layout nextRow 0 severity).reader.capture.severity = severity) ∧
    (plus (900 : Pos) running.table.profile.formLength = 1900 ∧ running.table.profile.tol = 30) ∧
    (leftSeen.bar .left).isSome ∧ within 30 (1931 : Pos) 1900 = false ∧ within 30 (1930 : Pos) 1900 = true ∧
    passed (1930 : Pos) (plus (1900 : Pos) 30) = false ∧
    (nextRow.see .left { position := 1930, decoded := Decoded.unread .truncated }).full .twoUp = false ∧
    (nextRow.see .left { position := 1930, decoded := Decoded.unread .truncated }).full .oneUp = true ∧
    (leftSeen.see .right { position := 1900, decoded := Decoded.unread .truncated }).full .twoUp = true ∧
    (leftSeen.see .right { position := 1900, decoded := Decoded.unread .truncated }).earliest = some 1900 ∧
    passed (1930 : Pos) (plus (plus (1900 : Pos) 1000) 30) = false ∧
    (offeredSeverity (decodeMark false false printed) = none ∧
      offeredSeverity (decodeMark false false (invertCell printed 21)) = some (.corrected, true) ∧
      offeredSeverity (decodeMark false true printed) = some (.uncorrectable, false)) ∧
    (∀ layout miss, miss ≤ 1 → dueWatches (movePosition .forward (lockedOn layout nextRow miss .none)) = [.rowEdge]) ∧
    dueWatches (movePosition .forward (lockedOn .twoUp leftSeen 0 .none)) = [.rowEdge] ∧
    leftSeen.earliest = some 1905 ∧ nextRow.earliest = none ∧ nextRow.first = false ∧
    passed (1931 : Pos) (plus (plus (1905 : Pos) 1000) 30) = false ∧
    (dueWatches (movePosition .forward (lockedOn .twoUp (firstRow.see .left { position := 900, decoded := Decoded.unread .truncated }) 0 .none)) =
      [.rowEdge]) :=
  ⟨fun l v => by cases l <;> cases v <;> decide, by decide, by decide, by decide, by decide, by decide, by decide, by decide,
    by decide, by decide, by decide, by decide,
    fun l m h => by
      have : m = 0 ∨ m = 1 := by omega
      rcases this with rfl | rfl <;> cases l <;> decide,
    by decide, by decide, by decide, by decide, by decide, by decide⟩

/-- The codeword of page 1 of tag 7, colour 1 (Table 3-2): cells 19, 20, 21, 29, 31 and the check cell 16. -/
def pageOne : Cells := 0xA0390000#32

/-- A filler, a page 3 that starts no set, and page 1 of a PENDING set of 2 pages. -/
theorem witness_FirstRowIsTracked :
    ((atPos 1000 running).line.sweep = false ∧ (atPos 1000 running).table.profileLoaded = true ∧
      (atPos 1000 running).table.profile.layout = .oneUp ∧ (atPos 1000 running).reader.state = .hunt ∧
      (atPos 1000 running).track.list = [] ∧ (atPos 1000 running).firing.queue = [] ∧
      (atPos 1000 running).firing.planned = .waste ∧ (atPos 1000 running).track.nextId < 65535 ∧
      minus (900 : Pos) (atPos 1000 running).table.profile.markOffset = 900 ∧
      passed (1000 : Pos) (plus (plus (900 : Pos) 6400) 300) = false ∧
      passed (1000 : Pos) (plus (plus (900 : Pos) 7900) 300) = false ∧
      passed (1000 : Pos) (plus (plus (900 : Pos) 1000) 30) = false ∧
      ahead (1000 : Pos) (firePointOf (atPos 1000 running) (.knife 900) (plus (plus (900 : Pos) 1000) 1850)) = true) ∧
    decodeMark false false fillerCells =
      { result := .clean, mark := some { kind := .filler, tag := 0, page := 0, colour := 0 }, cause := none } ∧
    (decodeMark false false printed = { result := .clean, mark := some printedMark, cause := none } ∧
      printedMark.kind = .page ∧ printedMark.page ≠ 1 ∧ (atPos 1000 running).track.ref = .none ∧
      (atPos 1000 running).track.orphanRun = false) ∧
    decodeMark false false pageOne =
      { result := .clean, mark := some { kind := .page, tag := 7, page := 1, colour := 1 }, cause := none } ∧
    ∃ r, TableOk (withSets [aSet 7 .pending [.fold .half, .route .deliver]] (atPos 1000 running)).table ∧
      (withSets [aSet 7 .pending [.fold .half, .route .deliver]] (atPos 1000 running)).findTag 7 = some r ∧
      r.state = .pending ∧ r.cause = none ∧ r.colour = 1 ∧ 1 < r.pages ∧
      passed (1000 : Pos) (plus (900 : Pos) 6400) = false ∧
      ahead (1000 : Pos) (firePointOf (atPos 1000 running) (.gate 0 .accumulate) (minus (plus (900 : Pos) 6400) 150)) =
        true :=
  ⟨by decide, by decide, by decide, by decide, aSet 7 .pending [.fold .half, .route .deliver], tableOk_one _ _, by decide⟩

/-- A new entry at the list's tail, a reading set reference, and a set. -/
def matching (ref : ReadingRef) (r : SetRec) : State :=
  let s := withSets [r] running
  { s with track := { s.track with list := [gateSheet 4 900 .waste none], nextId := 5, ref := ref } }

/-- The page and the LAST that a set of 2 pages with its first page read may meet. -/
def pageMark (kind : MarkKind) (tag page colour : Nat) : Mark := { kind := kind, tag := tag, page := page, colour := colour }

/-- The set's record while it is read. -/
def readSet (pages read : Nat) : SetRec :=
  { aSet 7 .active [.fold .half, .route .deliver] with pages := pages, pagesRead := read }

/-- The common hypotheses, and for each clause a mark and the reference and record it meets. -/
theorem witness_SheetsAreMatchedToSets :
    (∀ ref r, TableOk (matching ref r).table ∧ (matching ref r).findSheet 4 = some (gateSheet 4 900 .waste none) ∧
      (gateSheet 4 900 .waste none).set = none ∧ (gateSheet 4 900 .waste none).page = none ∧
      (gateSheet 4 900 .waste none).disposition = .waste) ∧
    ((matching (.reading 7 7 1) (readSet 2 1)).findSet 7 = some (readSet 2 1) ∧ (readSet 2 1).state = .active ∧
      (readSet 2 1).cause = none) ∧
    ((matching (.faultedRun 7 7 1) { readSet 2 1 with state := .rejecting }).setState 7 = some .rejecting) ∧
    (∀ m ∈ [pageMark .page 7 2 1, pageMark .page 9 1 1], m.page ≠ 1 ∨ (matching .none (readSet 2 0)).findTag m.tag = none) ∧
    (∀ x ∈ [SetState.cancelled, .pending, .active], ∃ r,
      (matching .none { readSet 2 0 with state := x }).findTag 7 = some r ∧ r.state = x ∧ r.colour = 1 ∧ 1 < r.pages) ∧
    (∃ r, (matching .none { readSet 1 0 with state := .pending }).findTag 7 = some r ∧ r.colour = 1 ∧ r.pages = 1) ∧
    ((pageMark .page 7 3 1).page ≠ (readSet 2 1).pagesRead + 1 ∧
      ((pageMark .last 7 2 1).page = (readSet 3 1).pagesRead + 1 ∧ (pageMark .last 7 2 1).page < (readSet 3 1).pages) ∧
      ((pageMark .page 7 2 1).page = (readSet 2 1).pagesRead + 1 ∧ (pageMark .page 7 2 1).page = (readSet 2 1).pages) ∧
      (pageMark .page 7 2 1).page < (readSet 3 1).pages ∧ (pageMark .last 7 2 1).page = (readSet 2 1).pages ∧
      (pageMark .page 9 2 1).tag ≠ 7) ∧
    (∃ q, (withSets [readSet 2 1, aSet 9 .pending [.fold .half]] (matching (.reading 7 7 1) (readSet 2 1))).findTag 9 = some q ∧
      q.state = .pending ∧ q.colour = 1 ∧ 1 < q.pages) ∧
    (∀ b, ({ (matching .none (readSet 2 0)) with
      track := { (matching .none (readSet 2 0)).track with orphanRun := b } } : State).track.orphanRun = b) :=
  ⟨fun _ _ => ⟨tableOk_one _ _, rfl, rfl, rfl, rfl⟩, by decide, by decide, by decide,
    fun x h => ⟨{ readSet 2 0 with state := x }, by
      simp only [List.mem_cons, List.not_mem_nil, or_false] at h
      rcases h with rfl | rfl | rfl <;> decide⟩,
    ⟨{ readSet 1 0 with state := .pending }, by decide⟩, by decide, ⟨aSet 9 .pending [.fold .half], by decide⟩,
    fun _ => rfl⟩

/-- At the edge of the window, and one count outside it. -/
theorem witness_ArrivalIsCollectedOrStray :
    (∃ r, (arriving 10300).line.sweep = false ∧ (arriving 10300).oldestAccumulate = some (sheet 7 10300) ∧
      within (arriving 10300).line.geometry.arrivalTol (arriving 10300).web.position (sheet 7 10300).accArrival = true ∧
      (arriving 10300).acc.state = .empty ∧ (sheet 7 10300).set = some 7 ∧ (sheet 7 10300).page.isSome ∧
      (arriving 10300).findSet 7 = some r ∧ r.state = .active ∧ r.cause = none ∧ r.pagesArrived + 1 < r.pages) ∧
    ((arriving 10301).line.sweep = false ∧ (arriving 10301).line.state ≠ .faulted ∧
      ∀ e, (arriving 10301).oldestAccumulate = some e →
        within (arriving 10301).line.geometry.arrivalTol (arriving 10301).web.position e.accArrival = false) :=
  ⟨⟨aSet 7 .active [.jog, .fold .half, .route .deliver], by decide⟩, by decide, by decide, fun e h => by
    have h' : (arriving 10301).oldestAccumulate = some (sheet 7 10301) := by decide
    rw [h'] at h
    cases h
    decide⟩

/-- The hold timer, the fold timer, and the offer timer with GUARD closed and open. -/
theorem witness_ExpiriesRejectTheSet :
    (∃ r, heldState.acc.holdTimer.isSome ∧ heldState.acc.held = some 7 ∧ heldState.findSet 7 = some r ∧
      r.state = .held ∧ r.cause = none ∧ NoneToTurn 7 heldState) ∧
    (∃ r, (inFolderOf .folding .folding).folder.timer.isSome ∧ (inFolderOf .folding .folding).folder.state = .folding ∧
      (inFolderOf .folding .folding).folder.set = some 7 ∧ (inFolderOf .folding .folding).findSet 7 = some r ∧
      r.state = .folding ∧ r.cause = none ∧ NoneToTurn 7 (inFolderOf .folding .folding) ∧
      (inFolderOf .folding .folding).line.state ≠ .faulted) ∧
    ∀ g, ∃ r,
      { offeredState with line := { offeredState.line with guard := g } }.line.guard = g ∧
      offeredState.belt.offerTimer.isSome ∧ offeredState.belt.offered = some 61003 ∧
      offeredState.belt.queue.head? = some 61003 ∧ offeredState.findSet 61003 = some r ∧ r.state = .offered ∧
      r.cause = none ∧ NoneToTurn 61003 offeredState ∧ offeredState.belt.stroke = false :=
  ⟨⟨_, by decide, rfl, rfl, rfl, rfl, none_in_nil rfl⟩,
    ⟨_, by decide, rfl, rfl, rfl, rfl, rfl, none_in_nil rfl, by decide⟩,
    fun _ => ⟨_, rfl, by decide, rfl, rfl, rfl, rfl, rfl, none_in_nil rfl, rfl⟩⟩

theorem witness_HandOverStarts : ∃ r, readyState.acc.state = .complete ∧ readyState.acc.held = some 7 ∧
    readyState.findSet 7 = some r ∧ r.state = .collected ∧ r.nextStep = none ∧ readyState.folder.state = .idle ∧
    readyState.belt.queue.length < 3 ∧ readyState.acc.stroke = none ∧ readyState.line.guard = .closed ∧
    readyState.line.state ≠ .faulted ∧ readyState.acc.obligation ≠ .forced ∧
    (r.skewed = false ∨ foldKindOf r.program = .none) :=
  ⟨readySet [.jog, .fold .half, .route .deliver], by decide⟩

/-- The five timeouts. -/
theorem witness_TimeoutsFaultTheLine :
    (releasing.line.state ≠ .faulted ∧ releasing.acc.releaseTimeout.isSome ∧ releasing.acc.state = .releasing ∧
      releasing.acc.held = some 7 ∧ NoneToTurn 7 releasing ∧
      releasing.findSet 7 = some (aSet 7 .folding [.fold .half, .route .deliver])) ∧
    (dumping.line.state ≠ .faulted ∧ dumping.acc.dumpTimeout.isSome) ∧
    (jogging.line.state ≠ .faulted ∧ jogging.acc.jogTimeout.isSome) ∧
    (travelling.line.state ≠ .faulted ∧ travelling.belt.travel.isSome) ∧
    ((gateState false true .ready).line.state ≠ .faulted ∧ (gateState false true .ready).belt.gateTimeout.isSome) :=
  ⟨⟨by decide, by decide, rfl, rfl, none_in_nil rfl, by decide⟩, by decide, by decide, by decide, by decide⟩

/-- The start, and the end with a set that nothing else holds. -/
theorem witness_DumpStartsAndEnds :
    ((rejectedBin .collecting).acc.state = .collecting ∧
      (∀ n, (rejectedBin .collecting).acc.held = some n → (rejectedBin .collecting).setState n = some .rejecting) ∧
      (rejectedBin .collecting).track.list = [] ∧ (rejectedBin .collecting).acc.stroke = none ∧
      (rejectedBin .collecting).line.guard = .closed) ∧
    ((rejectedBin .dumping).line.sweep = false ∧ (rejectedBin .dumping).acc.state = .dumping ∧
      (rejectedBin .dumping).acc.held = some 7 ∧ (rejectedBin .dumping).setState 7 = some .rejecting ∧
      (rejectedBin .dumping).track.list = [] ∧ (rejectedBin .dumping).folder.set ≠ some 7 ∧
      7 ∉ (rejectedBin .dumping).belt.queue) :=
  ⟨⟨rfl, fun n h => by cases h; decide, rfl, rfl, rfl⟩, by decide⟩

/-- A SKEWED set with no step left before its fold. -/
def skewedState : State :=
  inBinOf .complete 7 (withSets [{ readySet [.jog, .fold .half, .route .deliver] with skewed := true }] running)

/-- The JOG step; the squaring for hand-over; and the obligation's stroke, DUE with an infinite gap. -/
theorem witness_JogStrokeStarts :
    (∃ r, toJog.acc.state = .complete ∧ toJog.acc.stroke = none ∧ toJog.line.guard = .closed ∧
      toJog.acc.held = some 7 ∧ toJog.findSet 7 = some r ∧ r.state = .collected ∧ r.nextStep = some .jog) ∧
    (∃ r, skewedState.acc.state = .complete ∧ skewedState.acc.stroke = none ∧ skewedState.line.guard = .closed ∧
      skewedState.acc.held = some 7 ∧ skewedState.findSet 7 = some r ∧ r.state = .collected ∧ r.nextStep = none ∧
      r.skewed = true ∧ foldKindOf r.program ≠ .none) ∧
    ((interval .due).acc.state = .collecting ∧ (interval .due).acc.stroke = none ∧
      (interval .due).line.guard = .closed ∧ obligationStroke (interval .due) = some true ∧
      dumpDue (interval .due) = false ∧ canHandOver (interval .due) = false ∧ squaringWanted (interval .due) = none) :=
  ⟨⟨aSet 7 .collected [.jog, .fold .half, .route .deliver], by decide⟩,
    ⟨{ readySet [.jog, .fold .half, .route .deliver] with skewed := true }, by decide⟩, by decide⟩

/-- A good set COLLECTING under a stroke of the obligation. -/
def joggingActive : State :=
  { interval .due with acc := { (interval .due).acc with stroke := some { full := true, squaring := false, jogStep := false } } }

/-- The JOG step's own squaring stroke on a SKEWED set; and the obligation's stroke while COLLECTING. -/
theorem witness_JogDoneEndsTheStroke :
    (∃ k r, jogging.line.sweep = false ∧ jogging.acc.stroke = some k ∧ k.squaring = true ∧ k.jogStep = true ∧
      jogging.acc.held = some 7 ∧ jogging.findSet 7 = some r ∧ r.skewed = true ∧ r.state = .collected) ∧
    (∃ k, joggingActive.line.sweep = false ∧ joggingActive.acc.stroke = some k ∧ joggingActive.acc.state = .collecting ∧
      k.jogStep = false ∧ joggingActive.acc.held = some 7 ∧ joggingActive.setState 7 ≠ some .rejecting) :=
  ⟨⟨_, _, rfl, rfl, rfl, rfl, rfl, rfl, rfl, rfl⟩, ⟨_, rfl, rfl, rfl, rfl, rfl, by decide⟩⟩

theorem witness_JogIntervalEscalates : ∀ o, (interval o).acc.jogInterval.isSome := fun _ => rfl

/-- A release in flight; and an entry with none in flight. -/
theorem witness_FolderEntryTakesTheReleasedSet :
    (releasing.line.sweep = false ∧ releasing.folder.state = .idle ∧ releasing.acc.state = .releasing ∧
      releasing.acc.held = some 7 ∧ releasing.acc.others = [] ∧ releasing.acc.unassigned = 0) ∧
    (running.line.sweep = false ∧ running.line.state ≠ .faulted ∧ running.acc.state ≠ .releasing) := by decide

/-- FOLDING with a good set and with a REJECTING one; FAULTED with a set; IDLE on a RUNNING and on a FAULTED line. -/
theorem witness_FoldExitPutsTheSetOnTheBelt :
    (∀ x y, (inFolderOf x y).line.sweep = false ∧ (inFolderOf x y).folder.set = some 7 ∧
      (inFolderOf x y).folder.state = x ∧
      (inFolderOf x y).findSet 7 = some (aSet 7 y [.fold .half, .route .deliver])) ∧
    (running.line.sweep = false ∧ running.folder.state = .idle ∧ running.line.state ≠ .faulted) ∧
    (faulted.line.sweep = false ∧ faulted.folder.set = none ∧ faulted.line.state = .faulted) :=
  ⟨fun _ _ => ⟨rfl, rfl, rfl, rfl⟩, by decide, by decide⟩

/-- 61002 of chapter 8, whose ROUTE is DIVERT, as the head on its way. -/
def diverted61002 : State :=
  let s := withSets [aSet 61002 .onBelt [.jog, .fold .letter, .route .divert]] running
  { s with belt := { Delivery.empty .ready with queue := [61002], travel := some 1600000 } }

/-- A head to offer; a head to divert; an empty belt. -/
theorem witness_BeltEndRoutesTheHead :
    (∃ r, travelling.line.sweep = false ∧ travelling.belt.queue = 61003 :: [] ∧ travelling.belt.atEnd = false ∧
      travelling.findSet 61003 = some r ∧ r.state = .onBelt ∧ routesDivert r.program = false ∧
      travelling.belt.readiness = .ready ∧ travelling.belt.offered = none) ∧
    (∃ r, diverted61002.line.sweep = false ∧ diverted61002.belt.queue = 61002 :: [] ∧
      diverted61002.belt.atEnd = false ∧ diverted61002.findSet 61002 = some r ∧ r.state = .onBelt ∧
      routesDivert r.program = true ∧ r.cause = none ∧ NoneToTurn 61002 diverted61002 ∧
      diverted61002.line.guard = .closed ∧ diverted61002.belt.stroke = false) ∧
    (running.line.sweep = false ∧ running.belt.queue = [] ∧ running.line.state ≠ .faulted) :=
  ⟨⟨aSet 61003 .onBelt [.fold .letter, .route .deliver], by decide⟩,
    ⟨_, rfl, rfl, rfl, rfl, rfl, rfl, rfl, none_in_nil rfl, rfl, rfl⟩, by decide⟩

/-- A stroke that is wanted; and a stroke in flight for a REJECTING head that nothing else holds. -/
theorem witness_BeltGateDiverts :
    ((gateState true false .ready).belt.strokeWanted = true ∧ (gateState true false .ready).belt.stroke = false ∧
      (gateState true false .ready).line.guard = .closed) ∧
    (∃ r, (gateState false true .ready).line.sweep = false ∧ (gateState false true .ready).belt.stroke = true ∧
      (gateState false true .ready).belt.queue = 61003 :: [] ∧ 61003 ∉ ([] : List Nat) ∧
      (gateState false true .ready).findSet 61003 = some r ∧ r.state = .rejecting ∧
      (gateState false true .ready).track.list = [] ∧ (gateState false true .ready).acc.held ≠ some 61003 ∧
      61003 ∉ (gateState false true .ready).acc.others ∧ (gateState false true .ready).folder.set ≠ some 61003) :=
  ⟨by decide, aSet 61003 .rejecting [.fold .letter, .route .deliver], by decide⟩

/-- GUARD closed on a RUNNING and on a STOPPED line; and GUARD open with a belt gate stroke, a dump, a hand-over, a squaring
stroke and the obligation's stroke that wait. -/
theorem witness_GuardIsRead :
    (running.line.sweep = false ∧ running.line.guard = .closed ∧ running.line.state = .running) ∧
      (stopped.line.sweep = false ∧ stopped.line.guard = .closed ∧ stopped.line.state ≠ .running) ∧
      (waitsForGuard.line.sweep = false ∧ waitsForGuard.line.guard = .opened ∧
        waitsForGuard.belt.strokeWanted = true ∧ waitsForGuard.belt.stroke = false) ∧
      ((opened (rejectedBin .collecting)).line.guard = .opened ∧
        dumpDue ((opened (rejectedBin .collecting)).setGuard .closed) = true) ∧
      (∃ r, (opened readyState).line.guard = .opened ∧ (opened readyState).acc.held = some 7 ∧
        (opened readyState).findSet 7 = some r ∧ canHandOver ((opened readyState).setGuard .closed) = true) ∧
      ((opened toJog).line.guard = .opened ∧ squaringWanted ((opened toJog).setGuard .closed) = some true ∧
        (opened toJog).acc.stroke = none) ∧
      ((opened (interval .due)).line.guard = .opened ∧ obligationStroke (opened (interval .due)) = some true ∧
        canStroke ((opened (interval .due)).setGuard .closed) = true ∧
        dumpDue ((opened (interval .due)).setGuard .closed) = false ∧
        canHandOver ((opened (interval .due)).setGuard .closed) = false ∧
        squaringWanted ((opened (interval .due)).setGuard .closed) = none) :=
  ⟨by decide, by decide, by decide, by decide, ⟨readySet [.jog, .fold .half, .route .deliver], by decide⟩, by decide,
    by decide⟩

theorem witness_SweepCompletionOpensTheLine : State.reset.line.sweep = true := by decide

end Sys2Proof.Tests
end

section
/-! PROOFS. The statements of chapter 1, the Set Table and finishing programs. First what the shared operations keep of the
outcomes already recorded and what the end of one set adds to them; then the rules of the job port's requests. -/

namespace Sys2Proof.Machine

variable {s t u : State}

/-! ### What the examinations at the end of an event keep of the outcomes -/

/-- t has the outcome queues, the tally and the sets still to be flushed of s. -/
structure KeepsOutcomes (s t : State) : Prop where
  completion : t.table.completion = s.table.completion
  reprint : t.table.reprint = s.table.reprint
  tally : t.line.tally = s.line.tally
  ended : t.ev.ended = s.ev.ended

theorem KeepsOutcomes.refl (s : State) : KeepsOutcomes s s := ⟨rfl, rfl, rfl, rfl⟩

theorem KeepsOutcomes.trans (h : KeepsOutcomes s t) (k : KeepsOutcomes t u) : KeepsOutcomes s u :=
  ⟨k.completion.trans h.completion, k.reprint.trans h.reprint, k.tally.trans h.tally, k.ended.trans h.ended⟩

theorem raiseCond_keepsOutcomes (k : Cond) (x : CondParam) (s : State) : KeepsOutcomes s (raiseCond k x s) := by
  unfold raiseCond; dsimp only
  split <;> exact ⟨rfl, rfl, rfl, rfl⟩

theorem setHold_keepsOutcomes (k : HoldCause) (b : Bool) (s : State) : KeepsOutcomes s (setHold k b s) := by
  have put : KeepsOutcomes s (s.setLine { s.line with holds := s.line.holds.put k b }) := ⟨rfl, rfl, rfl, rfl⟩
  unfold setHold; dsimp only
  split
  · exact .refl s
  · split
    · exact put.trans (raiseCond_keepsOutcomes _ _ _)
    · exact put
    · exact put

theorem updateSet_keepsOutcomes (n : Nat) (f : SetRec → SetRec) (s : State) : KeepsOutcomes s (updateSet n f s) :=
  ⟨rfl, rfl, rfl, rfl⟩

theorem setAcc_keepsOutcomes (x : Accumulator) (s : State) : KeepsOutcomes s (s.setAcc x) := ⟨rfl, rfl, rfl, rfl⟩

theorem setFolder_keepsOutcomes (x : Folder) (s : State) : KeepsOutcomes s (s.setFolder x) := ⟨rfl, rfl, rfl, rfl⟩

theorem beginHold_keepsOutcomes (n i : Nat) (s : State) : KeepsOutcomes s (beginHold n i s) :=
  ((updateSet_keepsOutcomes n (SetRec.put .held) s).trans (setAcc_keepsOutcomes _ _)).trans
    (raiseCond_keepsOutcomes _ _ _)

theorem takeSteps_keepsOutcomes (k : Nat) : ∀ s, KeepsOutcomes s (takeSteps k s) := by
  induction k with
  | zero => exact .refl
  | succ k ih =>
    intro s
    unfold takeSteps
    split
    · exact .refl s
    · split
      · split
        · split
          · exact (updateSet_keepsOutcomes _ _ s).trans (ih _)
          · exact beginHold_keepsOutcomes _ _ s
        · split
          · exact (updateSet_keepsOutcomes _ _ s).trans (ih _)
          · exact updateSet_keepsOutcomes _ _ s
        · exact .refl s
      · exact .refl s

theorem startHandOver_keepsOutcomes (r : SetRec) (s : State) : KeepsOutcomes s (startHandOver r s) :=
  (((updateSet_keepsOutcomes r.number (SetRec.put .folding) s).trans (setAcc_keepsOutcomes _ _)).trans
    (setFolder_keepsOutcomes _ _)).trans (setHold_keepsOutcomes _ _ _)

theorem examHandOver_keepsOutcomes (s : State) : KeepsOutcomes s (examHandOver s) := by
  unfold examHandOver
  split
  · split
    · exact startHandOver_keepsOutcomes _ s
    · exact .refl s
  · exact .refl s

theorem examSquaring_keepsOutcomes (s : State) : KeepsOutcomes s (examSquaring s) := by
  have same := examSquaring_same s
  have table := same .table (by decide)
  have line := same .line (by decide)
  have ev := same .ev (by decide)
  exact ⟨congrArg _ table, congrArg _ table, congrArg _ line, congrArg _ ev⟩

theorem goOn_keepsOutcomes (s : State) : KeepsOutcomes s (goOn s) :=
  ((takeSteps_keepsOutcomes 4 s).trans (examHandOver_keepsOutcomes _)).trans (examSquaring_keepsOutcomes _)

theorem endAwait_keepsOutcomes (s : State) : KeepsOutcomes s (endAwait s) := by
  unfold endAwait
  split
  · split
    · exact (updateSet_keepsOutcomes _ _ s).trans (goOn_keepsOutcomes _)
    · exact .refl s
  · exact .refl s

theorem examDumpIf_keepsOutcomes (s : State) : KeepsOutcomes s (examDumpIf s) := by
  unfold examDumpIf examDump
  split
  · split
    · exact (setAcc_keepsOutcomes _ s).trans (setHold_keepsOutcomes _ _ _)
    · exact .refl s
  · exact .refl s

/-- The examinations of an event's end only move sets on within the accumulator: no set ends by them. -/
theorem examAsked_keepsOutcomes (s : State) : KeepsOutcomes s (examAsked s) := by
  unfold examAsked
  split
  · exact (endAwait_keepsOutcomes s).trans (examDumpIf_keepsOutcomes _)
  · exact examDumpIf_keepsOutcomes s

/-! ### The end of one set -/

theorem joinCompletion_table (n : Nat) (s : State) :
    (joinCompletion n s).table = { s.table with completion := s.table.completion ++ [n] } := by
  unfold joinCompletion; dsimp only
  split
  · exact raiseCond_same _ _ _ .table (by decide)
  · rfl

/-- A set that does not join the Reprint Queue joins the Completion Order alone (R8, R9). -/
theorem joinQueues_table {n : Nat} {r : SetRec} (h : s.findSet n = some r) (no : r.reprints = false) :
    (joinQueues s n).table = { s.table with completion := s.table.completion ++ [n] } := by
  have found : (joinCompletion n s).findSet n = some r :=
    (findSet_of_records (by rw [joinCompletion_table]) n).trans h
  have stays : joinReprintIf n (joinCompletion n s) = joinCompletion n s := by
    unfold joinReprintIf; rw [found]; simp [no]
  unfold joinQueues
  rw [stays, joinCompletion_table]

theorem flushEnded_one {n : Nat} (h : s.ev.ended = [n]) :
    flushEnded s = joinQueues (s.setEv { s.ev with ended := [] }) n := by
  unfold flushEnded; rw [h]; rfl

/-- An event that ended one set, which does not join the Reprint Queue, and asked for no gate plan. -/
structure EndsOne (n : Nat) (r : SetRec) (s : State) : Prop where
  found : s.findSet n = some r
  terminal : r.state.terminal = true
  noReprint : r.reprints = false
  ended : s.ev.ended = [n]
  noPlan : s.ev.planWanted = false

/-- A set that ended at the event is not the WAITING set whose AWAIT step the event may end. -/
theorem EndsOne.notWaiting {n : Nat} {r : SetRec} (h : EndsOne n r s) {r' : SetRec} (held : s.heldRec = some r')
    (waits : r'.state = .waiting) : r'.number ≠ n := by
  intro e
  have same := (heldRec_found held).1
  rw [e, h.found] at same
  cases same
  exact absurd h.terminal (by rw [waits]; decide)

theorem EndsOne.settle_findSet {n : Nat} {r : SetRec} (h : EndsOne n r s) : (settle s).findSet n = some r :=
  (Machine.settle_findSet n h.noPlan fun _ _ held waits => h.notWaiting held waits).trans h.found

/-- When such an event is settled the set stands at the tail of the Completion Order; the Reprint Queue and the tally are
as the event's own rule left them. -/
theorem EndsOne.settle_outcomes {n : Nat} {r : SetRec} (h : EndsOne n r s) :
    (settle s).table.completion = s.table.completion ++ [n] ∧ (settle s).table.reprint = s.table.reprint ∧
      (settle s).line.tally = s.line.tally := by
  have keeps := examAsked_keepsOutcomes s
  have found : (examAsked s).findSet n = some r :=
    (examAsked_findSet s n fun _ _ held waits => h.notWaiting held waits).trans h.found
  have flushed : settle s = joinQueues ((examAsked s).setEv { (examAsked s).ev with ended := [] }) n := by
    unfold settle
    rw [replan_idle h.noPlan, flushEnded_one (keeps.ended.trans h.ended)]
  have table : (settle s).table =
      { (examAsked s).table with completion := (examAsked s).table.completion ++ [n] } := by
    rw [flushed]; exact joinQueues_table found h.noReprint
  have line : (settle s).line = (examAsked s).line := by
    rw [flushed]; exact joinQueues_same n _ .line (by decide)
  rw [table, line]
  exact ⟨congrArg (· ++ [n]) keeps.completion, keeps.reprint, keeps.tally⟩

/-- The reply to a request and the notices change none of this. -/
theorem EndsOne.answer_outcomes {n : Nat} {r : SetRec} (h : EndsOne n r s) (p : Port) (k : Byte) (reply : Reply) :
    (answer p k reply s).findSet n = some r ∧ (answer p k reply s).table.completion = s.table.completion ++ [n] ∧
      (answer p k reply s).table.reprint = s.table.reprint ∧ (answer p k reply s).line.tally = s.line.tally := by
  have same := answer_same p k reply s
  have table : (answer p k reply s).table = (settle s).table := same .table (by decide)
  have line : (answer p k reply s).line = (settle s).line := same .line (by decide)
  rw [answer_findSet, table, line]
  exact ⟨h.settle_findSet, h.settle_outcomes⟩

/-! ### Requests and their rules -/

/-- A request that its rule refuses is answered, and nothing else changes. -/
theorem Asks.refused {p : Port} {k : RequestKind} {body : List Byte} {rule : Rule} {r : Result} (h : Asks p k body s)
    (e : rule body (popRequest p s).begin = ((popRequest p s).begin, .plain r)) :
    takeRequest p k rule s = answered p k.code r [] s :=
  h.exact e rfl rfl rfl rfl

/-- A request that its rule decides, sending nothing itself, gets its reply. -/
theorem Asks.replied {p : Port} {k : RequestKind} {body : List Byte} {rule : Rule} {r : Reply} (h : Asks p k body s)
    (e : rule body (popRequest p s).begin = (u, r)) (moves : Moves .inner false (popRequest p s).begin u) :
    Replied p k r.result r.data s (takeRequest p k rule s) := by
  rw [h.taken, e]
  exact answer_replied r h.waits fun q => moves.quiet_ports rfl nofun q

/-- Taking the head of a queue, and beginning an event, leave the table as it is. -/
theorem begun_findSet (p : Port) (s : State) (n : Nat) : (popRequest p s).begin.findSet n = s.findSet n := rfl

theorem begun_same (p : Port) (s : State) : SameExcept [.links, .ev] s (popRequest p s).begin :=
  (setPort_same _ _).comp (setEv_same _)

/-! ### CANCEL SET (R14) -/

theorem exec_cancelSet (s : State) : exec .cancelSet s = .next (takeRequest .job .cancelSet cancelSetRule s) := rfl

section
variable {body : List Byte} {n : Nat} {r : SetRec} (parsed : parseSetNumber body = some n)
include parsed

theorem cancelSetRule_unknown (h : s.findSet n = none) : cancelSetRule body s = (s, .plain .noSuchSet) := by
  simp [cancelSetRule, withSetNumber, parsed, State.setState, h]

theorem cancelSetRule_pending (h : s.findSet n = some r) (x : r.state = .pending) :
    cancelSetRule body s = (makeTerminal n .cancelled s, .plain .done) := by
  simp [cancelSetRule, withSetNumber, parsed, State.setState, h, x]

theorem cancelSetRule_started (h : s.findSet n = some r) (x : r.state ≠ .pending) :
    cancelSetRule body s = (s, .plain (if r.state.terminal then .wrongState else .inMachine)) := by
  simp only [cancelSetRule, withSetNumber, parsed, State.setState, h, Option.map_some]
  split <;> rfl

end

/-- A set that ends as CANCELLED at an event that asked for nothing else. -/
theorem makeTerminal_cancelled_endsOne {n : Nat} {r : SetRec} (h : s.findSet n = some r) (x : r.state = .pending)
    (idle : s.ev = Event.none) : EndsOne n { r with state := .cancelled } (makeTerminal n .cancelled s) := by
  have alive : r.state.terminal = false := by rw [x]; rfl
  rw [makeTerminal_open .cancelled h alive]
  constructor
  case found => exact findSet_putSetState_self .cancelled h alive
  case terminal => rfl
  case noReprint => rfl
  case ended => show s.ev.ended ++ [n] = [n]; rw [idle]; rfl
  case noPlan => show s.ev.planWanted = false; rw [idle]; rfl

/-- Only sets DELIVERED and DIVERTED are counted (R167); the queues are joined at the end of the event (R8). -/
theorem makeTerminal_cancelled_outcomes (n : Nat) (s : State) :
    (makeTerminal n .cancelled s).table.completion = s.table.completion ∧
      (makeTerminal n .cancelled s).table.reprint = s.table.reprint ∧
      (makeTerminal n .cancelled s).line.tally = s.line.tally := by
  unfold makeTerminal
  split <;> exact ⟨rfl, rfl, rfl⟩

/-- CANCEL SET of a PENDING set: the set ends, and its end is settled before the reply. -/
theorem takeRequest_cancelSet_pending {body : List Byte} {n : Nat} {r : SetRec} (asks : Asks .job .cancelSet body s)
    (parsed : parseSetNumber body = some n) (h : s.findSet n = some r) (x : r.state = .pending) :
    takeRequest .job .cancelSet cancelSetRule s =
      answer .job RequestKind.cancelSet.code (.plain .done) (makeTerminal n .cancelled (popRequest .job s).begin) := by
  rw [asks.taken, cancelSetRule_pending parsed ((begun_findSet .job s n).trans h) x]

/-- CANCEL SET of a PENDING set. -/
theorem cancelSet_pending {body : List Byte} {n : Nat} {r : SetRec} (asks : Asks .job .cancelSet body s)
    (parsed : parseSetNumber body = some n) (h : s.findSet n = some r) (x : r.state = .pending) :
    ∃ t, exec .cancelSet s = .next t ∧ Replied .job .cancelSet .done [] s t ∧
      t.findSet n = some { r with state := .cancelled } ∧ t.table.completion = s.table.completion ++ [n] ∧
      t.table.reprint = s.table.reprint ∧ t.line.tally = s.line.tally ∧
      SameExcept [.links, .table, .track, .acc, .folder, .line, .ev] s t := by
  have begun : (popRequest .job s).begin.findSet n = some r := (begun_findSet .job s n).trans h
  have one := makeTerminal_cancelled_endsOne begun x rfl
  obtain ⟨completion, reprint, tally⟩ := makeTerminal_cancelled_outcomes n (popRequest .job s).begin
  obtain ⟨found, completion', reprint', tally'⟩ :=
    one.answer_outcomes .job RequestKind.cancelSet.code (.plain .done)
  have toEnded : SameExcept [.links, .table, .track, .line, .ev] s (makeTerminal n .cancelled (popRequest .job s).begin) :=
    (begun_same .job s).comp (makeTerminal_same n .cancelled _)
  have toSettled : SameExcept [.links, .table, .track, .acc, .folder, .line, .ev] s
      (settle (makeTerminal n .cancelled (popRequest .job s).begin)) := toEnded.comp (settle_same one.noPlan)
  refine ⟨_, exec_cancelSet s,
    asks.replied (cancelSetRule_pending parsed begun x) ((Moves.here _).makeTerminal n .cancelled), ?_⟩
  rw [takeRequest_cancelSet_pending asks parsed h x]
  refine ⟨found, ?_, reprint'.trans reprint, tally'.trans tally, toSettled.comp (answer_same _ _ _ _)⟩
  rw [completion', completion]
  rfl

/-- CANCEL SET of a set in any state but PENDING. -/
theorem cancelSet_started {body : List Byte} {n : Nat} {r : SetRec} (asks : Asks .job .cancelSet body s)
    (parsed : parseSetNumber body = some n) (h : s.findSet n = some r) (x : r.state ≠ .pending) :
    exec .cancelSet s = .next (answered .job RequestKind.cancelSet.code
      (if r.state.terminal then .wrongState else .inMachine) [] s) := by
  rw [exec_cancelSet, asks.refused (cancelSetRule_started parsed h x)]

/-- CANCEL SET of a set that has no record. -/
theorem cancelSet_unknown {body : List Byte} {n : Nat} (asks : Asks .job .cancelSet body s)
    (parsed : parseSetNumber body = some n) (h : s.findSet n = none) :
    exec .cancelSet s = .next (answered .job RequestKind.cancelSet.code .noSuchSet [] s) := by
  rw [exec_cancelSet, asks.refused (cancelSetRule_unknown parsed h)]

/-- Settles O24, by the rule of CANCEL SET for each state of the set, and by what the end of the event makes of the one set
that the rule ends. -/
theorem cancelSetEndsAPendingSet : Obligations.CancelSetEndsAPendingSet := by
  unfold Obligations.CancelSetEndsAPendingSet
  intro body n s asks parsed
  refine ⟨fun r h x => cancelSet_pending asks parsed h x, fun r h x => ?inMachine, fun r h x => ?terminal,
    cancelSet_unknown asks parsed⟩
  case inMachine =>
    have alive : r.state ≠ .pending ∧ r.state.terminal = false := by
      rcases x with x | x | x | x | x | x | x | x <;> rw [x] <;> decide
    rw [cancelSet_started asks parsed h alive.1, alive.2]
    rfl
  case terminal =>
    have ended : r.state ≠ .pending ∧ r.state.terminal = true := by
      rcases x with x | x | x <;> rw [x] <;> decide
    rw [cancelSet_started asks parsed h ended.1, ended.2]
    rfl

end Sys2Proof.Machine
end

section
/-! PROOFS. The statements of chapter 2, web position and firing arithmetic. First the order in which free events are
taken and the order of the Firing Queue; then what the shared operations keep of the queued firings; then the blocks'
parts of a speed update. -/

namespace Sys2Proof.Machine

variable {s t u : State}

/-! ### Free orders -/

/-- A free order is an order of the same elements, whatever number picks it. -/
theorem arrangeFuel_perm {α : Type} (fuel : Nat) : ∀ (n : Nat) (xs : List α), (arrangeFuel fuel n xs).Perm xs := by
  induction fuel with
  | zero => exact fun _ _ => .refl _
  | succ fuel ih =>
    intro n xs
    match xs with
    | [] => exact .refl _
    | [_] => exact .refl _
    | x :: y :: rest =>
      unfold arrangeFuel
      dsimp only
      split
      · exact .refl _
      · rename_i z after picked
        have split : (x :: y :: rest).take (n % (x :: y :: rest).length) ++ z :: after = x :: y :: rest := by
          rw [← picked, List.take_append_drop]
        exact (((ih _ _).cons z).trans List.perm_middle.symm).trans (.of_eq split)

/-- Events at one moment are taken one after another, each once; more than one of them draw an order first. -/
theorem inFreeOrder_eq_foldl {α : Type} (take : State → α → State) (xs : List α) (s : State) :
    ∃ ys : List α, ys.Perm xs ∧
      (inFreeOrder take xs s = ys.foldl take s ∨ inFreeOrder take xs s = ys.foldl take s.drawn) := by
  unfold inFreeOrder
  split
  · exact ⟨[], .refl _, .inl rfl⟩
  · exact ⟨[_], .refl _, .inl rfl⟩
  · exact ⟨arrange s xs, arrangeFuel_perm _ _ _, .inr rfl⟩

/-! ### The Firing Queue -/

theorem insertFiring_perm (p : Pos) (f : Firing) (q : List Firing) : (insertFiring p f q).Perm (f :: q) := by
  induction q with
  | nil => exact .refl _
  | cons g rest ih =>
    unfold insertFiring
    split
    · exact .refl _
    · exact (ih.cons g).trans (.swap f g rest)

theorem foldl_insertFiring_perm (p : Pos) (q : List Firing) :
    ∀ a : List Firing, (q.foldl (fun acc f => insertFiring p f acc) a).Perm (q ++ a) := by
  induction q with
  | nil => exact fun a => .refl a
  | cons f q ih => exact fun a => ((ih _).trans ((insertFiring_perm p f a).append_left q)).trans List.perm_middle

/-- The order of R90 neither adds nor drops an entry. -/
theorem mem_orderQueue {p : Pos} {q : List Firing} {f : Firing} : f ∈ orderQueue p q ↔ f ∈ q := by
  simpa [orderQueue] using (foldl_insertFiring_perm p q []).mem_iff

theorem mem_joinQueue {f g : Firing} : g ∈ (joinQueue f s).firing.queue ↔ g ∈ s.firing.queue ∨ g = f := by
  show g ∈ orderQueue _ _ ↔ _
  rw [mem_orderQueue, List.mem_append, List.mem_singleton]

/-- P has reached what is not ahead of it (R25). -/
theorem reached_eq_not_ahead (p b : Pos) : reached p b = !ahead p b := by
  rw [Bool.eq_iff_iff]
  simp [reached, ahead]

/-- A firing made with room in the queue and its fire point ahead of P joins the queue (R39). -/
theorem makeFiring_ahead {a : Actuator} {target : Pos} (running : Disposition) (room : s.firing.queue.length < 32)
    (future : ahead s.web.position (firePointOf s a target) = true) :
    makeFiring a target running s =
      (joinQueue { actuator := a, target := target, firePoint := firePointOf s a target } s, false) := by
  unfold makeFiring
  rw [if_neg (by unfold queueCapacity; omega)]
  dsimp only
  rw [if_pos future]

/-! ### The lead (R30) -/

theorem lead_le {l w : Nat} (hl : l ≤ 20000) (hw : w ≤ 255) : lead l w ≤ 1275 := by
  have product : l * w ≤ 20000 * 255 := Nat.mul_le_mul hl hw
  unfold lead
  omega

theorem lead_at_rest (l : Nat) : lead l 0 = 0 := by simp [lead]

/-- The fire point depends on the speed sample and the geometry alone (R38). -/
theorem firePointOf_congr (web : t.web = s.web) (geometry : t.line.geometry = s.line.geometry) (a : Actuator)
    (target : Pos) : firePointOf t a target = firePointOf s a target := by
  cases a <;> simp only [firePointOf, leadTime, web, geometry]

/-- The setting of a GATE entry does not bear on its fire point. -/
theorem firePointOf_gate (s : State) (i j : Nat) (d e : Disposition) (target : Pos) :
    firePointOf s (.gate i d) target = firePointOf s (.gate j e) target := rfl

/-! ### What an operation keeps of the queued firings -/

/-- Only LOAD GEOMETRY and a power-up change the geometry. -/
theorem Moves.geometry_kept {c : During} {g : Bool} (h : Moves c g s t) (load : c.cmd ≠ some .loadGeometry)
    (power : ∀ a b, c.cmd ≠ some (.powerUp a b)) : t.line.geometry = s.line.geometry := by
  have move : ∀ v w, Move c g v w → v.line.geometry = s.line.geometry → w.line.geometry = s.line.geometry := by
    intro v w m kept
    cases m with
    | line _ change => exact (change.geometry.resolve_right load).1.trans kept
    | cold _ _ _ up => exact absurd up (power _ _)
    | _ => exact kept
  exact h.keeps move rfl

/-- Every queued firing has the fire point of its target at the speed sample in force. -/
def FirePointsInForce (s : State) : Prop := ∀ f ∈ s.firing.queue, f.firePoint = firePointOf s f.actuator f.target

/-- From s to t the fire points stay in force, and every knife firing that P has not reached, by the speed sample in force,
stays queued for its target. -/
structure KeepsFirings (s t : State) : Prop where
  web : t.web = s.web
  geometry : t.line.geometry = s.line.geometry
  inForce : FirePointsInForce s → FirePointsInForce t
  knives : ∀ f ∈ s.firing.queue, ∀ row, f.actuator = .knife row →
    ahead s.web.position (firePointOf s f.actuator f.target) = true →
    ∃ g ∈ t.firing.queue, g.actuator = f.actuator ∧ g.target = f.target

namespace KeepsFirings

theorem firePointOf_eq (h : KeepsFirings s t) (a : Actuator) (target : Pos) :
    firePointOf t a target = firePointOf s a target := firePointOf_congr h.web h.geometry a target

/-- The queue as it was, with the web and the geometry as they were. -/
theorem of_queue (web : t.web = s.web) (geometry : t.line.geometry = s.line.geometry)
    (queue : t.firing.queue = s.firing.queue) : KeepsFirings s t where
  web := web
  geometry := geometry
  inForce h f mem := by
    rw [firePointOf_congr web geometry]
    exact h f (queue ▸ mem)
  knives f mem _ _ _ := ⟨f, queue ▸ mem, rfl, rfl⟩

theorem refl (s : State) : KeepsFirings s s := .of_queue rfl rfl rfl

theorem trans (h : KeepsFirings s t) (k : KeepsFirings t u) : KeepsFirings s u where
  web := k.web.trans h.web
  geometry := k.geometry.trans h.geometry
  inForce := k.inForce ∘ h.inForce
  knives f mem row knife future := by
    obtain ⟨g, memT, act, target⟩ := h.knives f mem row knife future
    obtain ⟨g', memU, act', target'⟩ := k.knives g memT row (act.trans knife)
      (by rw [h.web, h.firePointOf_eq, act, target]; exact future)
    exact ⟨g', memU, act'.trans act, target'.trans target⟩

/-- An operation of a speed update that touches neither the web nor the Firing Scheduler. -/
theorem of_moves {l : List Part} (m : Moves (.of .speedUpdate) true s t) (same : SameExcept l s t)
    (other : Part.web ∉ l ∧ Part.firing ∉ l := by decide) : KeepsFirings s t :=
  .of_queue (same .web other.1) (m.geometry_kept nofun nofun) (congrArg Scheduler.queue (same .firing other.2))

/-- A queue whose entries are each made for a target at the speed sample in force, or stood already with the same target
and actuator, the gate's setting aside. -/
theorem setQueue {q : List Firing}
    (origin : ∀ g ∈ q, g.firePoint = firePointOf s g.actuator g.target ∨
      ∃ f ∈ s.firing.queue, g.firePoint = f.firePoint ∧ firePointOf s g.actuator g.target = firePointOf s f.actuator f.target)
    (knives : ∀ f ∈ s.firing.queue, ∀ row, f.actuator = .knife row →
      ahead s.web.position (firePointOf s f.actuator f.target) = true →
      ∃ g ∈ q, g.actuator = f.actuator ∧ g.target = f.target) : KeepsFirings s (s.setQueue q) where
  web := rfl
  geometry := rfl
  inForce h g mem := by
    rcases origin g mem with made | ⟨f, memS, point, target⟩
    · exact made
    · exact point.trans ((h f memS).trans target.symm)
  knives := knives

theorem foldl {α : Type} {f : State → α → State} (h : ∀ v x, KeepsFirings v (f v x)) (xs : List α) :
    ∀ v, KeepsFirings v (xs.foldl f v) := by
  induction xs with
  | nil => exact refl
  | cons x xs ih => exact fun v => (h v x).trans (ih _)

end KeepsFirings

/-! ### The operations of the Firing Scheduler -/

theorem lineFault_keepsFirings (k : LineCause) (n : Option Nat) (s : State) : KeepsFirings s (lineFault k n s) :=
  .of_moves ((Moves.here s).lineFault k n) (lineFault_same k n s)

theorem rewriteSheet_same (id : Nat) (d : Disposition) (s : State) :
    SameExcept [.table, .acc, .track, .line, .ev] s (rewriteSheet id d s) := by
  have send : ∀ x, SameExcept [.track, .ev] s (sendSheet id x s) := fun _ => (setList_same _ _).comp (setEv_same _)
  have cause : ∀ (n : Option Nat) (v : State),
      SameExcept [.table, .acc, .track, .line, .ev] v (recordCauseOpt n .missedFiring v) := by
    intro n v
    cases n with
    | none => exact .refl v
    | some n => exact recordCause_same n _ _ v
  unfold rewriteSheet
  split
  · exact .refl s
  · split
    · exact .refl s
    · split
      · exact (send _).comp (cause _ _)
      · exact (send _).mono

theorem rewriteSheet_keepsFirings (id : Nat) (d : Disposition) (s : State) : KeepsFirings s (rewriteSheet id d s) :=
  .of_moves ((Moves.here s).rewriteSheet id d) (rewriteSheet_same id d s)

theorem withhold_keepsFirings (a : Actuator) (d : Disposition) (s : State) : KeepsFirings s (withhold a d s) := by
  cases a with
  | knife row => exact lineFault_keepsFirings _ _ s
  | gate sheet _ => exact rewriteSheet_keepsFirings sheet d s

theorem fire_keepsFirings (a : Actuator) (s : State) : KeepsFirings s (fire a s) := by
  cases a <;> exact .of_queue rfl rfl rfl

theorem countLate_keepsFirings (lateness : Int) (s : State) : KeepsFirings s (countLate lateness s) := by
  unfold countLate
  split
  · exact .of_queue rfl rfl rfl
  · exact .refl s

theorem takeDue_keepsFirings (f : Firing) (lateness : Int) (d : Disposition) (s : State) :
    KeepsFirings s (takeDue f lateness d s).1 := by
  unfold takeDue
  split
  · exact withhold_keepsFirings _ _ s
  · exact (countLate_keepsFirings _ s).trans (fire_keepsFirings _ _)

theorem askGuarded_keepsFirings (a : Actuator) (s : State) : KeepsFirings s (askGuarded a s) := by
  unfold askGuarded
  split
  · exact .of_queue rfl rfl rfl
  · exact .refl s

theorem takeMade_keepsFirings (f : Firing) (lateness : Int) (d : Disposition) (s : State) :
    KeepsFirings s (takeMade f lateness d s).1 := by
  have due := takeDue_keepsFirings f lateness (withheldTo s d) s
  unfold takeMade
  dsimp only
  split
  · exact due.trans (askGuarded_keepsFirings _ _)
  · exact due

/-- An entry made at the speed sample in force joins the queue. -/
theorem joinQueue_keepsFirings (a : Actuator) (target : Pos) (s : State) :
    KeepsFirings s (joinQueue { actuator := a, target := target, firePoint := firePointOf s a target } s) := by
  refine .setQueue (fun g mem => ?_) (fun f mem _ _ _ => ⟨f, mem_joinQueue.mpr (.inl mem), rfl, rfl⟩)
  rcases mem_joinQueue.mp mem with old | rfl
  · exact .inr ⟨g, old, rfl, rfl⟩
  · exact .inl rfl

theorem makeFiring_keepsFirings (a : Actuator) (target : Pos) (running : Disposition) (s : State) :
    KeepsFirings s (makeFiring a target running s).1 := by
  unfold makeFiring
  split
  · split
    · exact lineFault_keepsFirings _ _ s
    · exact (lineFault_keepsFirings _ _ s).trans (rewriteSheet_keepsFirings _ _ _)
  · dsimp only
    split
    · exact joinQueue_keepsFirings a target s
    · exact takeMade_keepsFirings _ _ _ s

/-! ### The gate plan -/

/-- Another setting for the gate moves no fire point, and passes over the knife. -/
theorem resetGate_keepsFirings (target : Pos) (d : Disposition) (s : State) : KeepsFirings s (resetGate target d s) := by
  refine .setQueue (fun g mem => .inr ?_) (fun f mem row knife _ => ⟨f, ?_, rfl, rfl⟩)
  · obtain ⟨f, old, rfl⟩ := List.mem_map.mp mem
    refine ⟨f, old, ?_⟩
    split
    · rename_i sheet setting gate
      split
      · exact ⟨rfl, by rw [gate]; exact firePointOf_gate ..⟩
      · exact ⟨rfl, rfl⟩
    · exact ⟨rfl, rfl⟩
  · exact List.mem_map.mpr ⟨f, mem, by rw [knife]⟩

/-- A re-derivation drops GATE entries alone (R93). -/
theorem dropGates_keepsFirings (s : State) : KeepsFirings s (dropGates s) := by
  refine .setQueue (fun g mem => .inr ⟨g, (List.mem_filter.mp mem).1, rfl, rfl⟩) (fun f mem row knife _ => ⟨f, ?_, rfl, rfl⟩)
  exact List.mem_filter.mpr ⟨mem, by rw [knife]; rfl⟩

theorem walkFiring_keepsFirings (e : SheetEntry) (want running : Disposition) (s : State) :
    KeepsFirings s (walkFiring e want running s).1 := by
  unfold walkFiring
  dsimp only
  split
  · split
    · exact .refl s
    · split
      · exact .refl s
      · exact ((rewriteSheet_keepsFirings _ _ s).trans (rewriteSheet_keepsFirings _ _ _)).trans
          (resetGate_keepsFirings _ _ _)
  · exact makeFiring_keepsFirings _ _ _ s

theorem followSheet_keepsFirings (p e : SheetEntry) (s : State) : KeepsFirings s (followSheet p e s) := by
  unfold followSheet
  split
  · exact .refl s
  · exact rewriteSheet_keepsFirings _ _ s

theorem walkWasted_keepsFirings (p e : SheetEntry) (running : Disposition) (s : State) :
    KeepsFirings s (walkWasted p e running s).1 := by
  cases running with
  | waste => exact .refl s
  | accumulate =>
    have made := walkFiring_keepsFirings e .waste .accumulate s
    unfold walkWasted
    dsimp only
    split
    · exact made.trans (followSheet_keepsFirings p e _)
    · exact made

theorem walkPair_keepsFirings (p e : SheetEntry) (running : Disposition) (s : State) :
    KeepsFirings s (walkPair p e running s).1 := by
  unfold walkPair
  dsimp only
  split
  · split
    · exact (rewriteSheet_keepsFirings _ _ s).trans (resetGate_keepsFirings _ _ _)
    · exact (rewriteSheet_keepsFirings _ _ s).trans (walkWasted_keepsFirings _ _ _ _)
  · exact (rewriteSheet_keepsFirings _ _ s).trans (walkWasted_keepsFirings _ _ _ _)

theorem walkEntry_keepsFirings (prev : Option Nat) (id : Nat) (running : Disposition) (s : State) :
    KeepsFirings s (walkEntry prev id running s).1 := by
  unfold walkEntry
  split
  · exact .refl s
  · rename_i e _
    have alone : KeepsFirings s (if e.disposition = running then (s, running)
        else ((walkFiring e e.disposition running s).1, (walkFiring e e.disposition running s).2.1)).1 := by
      split
      · exact .refl s
      · exact walkFiring_keepsFirings e _ _ s
    dsimp only
    split
    · exact alone
    · split
      · exact walkPair_keepsFirings _ e _ s
      · exact alone

theorem walk_keepsFirings (ids : List Nat) : ∀ (prev : Option Nat) (running : Disposition) (s : State),
    KeepsFirings s (walk prev ids running s) := by
  induction ids with
  | nil => exact fun _ _ _ => .of_queue rfl rfl rfl
  | cons id ids ih => exact fun prev running s => (walkEntry_keepsFirings prev id running s).trans (ih _ _ _)

theorem setEv_keepsFirings (x : Event) (s : State) : KeepsFirings s (s.setEv x) := .of_queue rfl rfl rfl

theorem rederive_keepsFirings (s : State) : KeepsFirings s (rederive s) :=
  ((setEv_keepsFirings _ s).trans (dropGates_keepsFirings _)).trans (walk_keepsFirings _ _ _ _)

theorem replanLoop_keepsFirings (fuel : Nat) : ∀ s, KeepsFirings s (replanLoop fuel s) := by
  induction fuel with
  | zero => exact .refl
  | succ fuel ih =>
    intro s
    unfold replanLoop
    split
    · exact ((setEv_keepsFirings _ s).trans (rederive_keepsFirings _)).trans (ih _)
    · exact .refl s

/-! ### The parts of a speed update -/

theorem settle_keepsFirings (s : State) : KeepsFirings s (settle s) := by
  have plan : KeepsFirings s (replan s) := replanLoop_keepsFirings _ s
  have asked : KeepsFirings (replan s) (examAsked (replan s)) :=
    .of_moves (Moves.here _).examAsked (examAsked_same _)
  exact (plan.trans asked).trans (.of_moves (Moves.here _).flushEnded (flushEnded_same _))

theorem flushNotices_keepsFirings (s : State) : KeepsFirings s (flushNotices s) :=
  .of_moves ((Moves.here s).flushNotices rfl) (flushNotices_same s)

/-- What follows an event's rule keeps the queued firings. -/
theorem event_keepsFirings_rule (rule : State → State) (s : State) : KeepsFirings (rule s.begin) (event rule s) :=
  ((settle_keepsFirings _).trans (flushNotices_keepsFirings _)).trans (setEv_keepsFirings _ _)

theorem event_keepsFirings {rule : State → State} (h : ∀ v, KeepsFirings v (rule v)) (s : State) :
    KeepsFirings s (event rule s) :=
  ((setEv_keepsFirings _ s).trans (h _)).trans (event_keepsFirings_rule rule s)

/-- The recomputation puts every fire point in force (R97). -/
theorem retime_inForce (s : State) : FirePointsInForce (retime s) := by
  intro f mem
  obtain ⟨old, _, rfl⟩ := List.mem_map.mp (mem_orderQueue.mp mem)
  rfl

theorem retime_keepsFirings (s : State) : KeepsFirings s (retime s) where
  web := rfl
  geometry := rfl
  inForce _ := retime_inForce s
  knives f mem _ _ _ := ⟨{ f with firePoint := firePointOf s f.actuator f.target },
    mem_orderQueue.mpr (List.mem_map_of_mem mem), rfl, rfl⟩

theorem askWithheld_keepsFirings (a : Actuator) (s : State) : KeepsFirings s (askWithheld a s) := by
  unfold askWithheld
  split
  · exact .refl s
  · exact setEv_keepsFirings _ s
  · exact setEv_keepsFirings _ s

/-- A firing that P has reached falls due: no other leaves the queue. -/
theorem fallDue_keepsFirings {f : Firing} (lateness : Int)
    (due : ahead s.web.position (firePointOf s f.actuator f.target) = false) :
    KeepsFirings s (fallDue f lateness s) := by
  have left : KeepsFirings s (s.setQueue (s.firing.queue.filter fun g => g ≠ f)) := by
    refine .setQueue (fun g mem => .inr ⟨g, (List.mem_filter.mp mem).1, rfl, rfl⟩)
      (fun g mem _ _ future => ⟨g, List.mem_filter.mpr ⟨mem, ?_⟩, rfl, rfl⟩)
    have other : g ≠ f := by
      rintro rfl
      rw [due] at future
      cases future
    simpa using other
  have taken := left.trans (takeDue_keepsFirings f lateness s.firing.actual _)
  unfold fallDue
  dsimp only
  split
  · exact taken.trans (askWithheld_keepsFirings _ _)
  · exact taken

/-- The late entries fall due one after another; none of them is ahead of P. -/
theorem foldl_takeLate_keepsFirings (late : List Firing) : ∀ s,
    (∀ f ∈ late, ahead s.web.position (firePointOf s f.actuator f.target) = false) →
    KeepsFirings s (late.foldl takeLate s) := by
  induction late with
  | nil => exact fun s _ => .refl s
  | cons f late ih =>
    intro s due
    have first : KeepsFirings s (takeLate s f) := fallDue_keepsFirings _ (due f (List.mem_cons_self ..))
    refine first.trans (ih _ fun g mem => ?_)
    rw [first.web, first.firePointOf_eq]
    exact due g (List.mem_cons_of_mem f mem)

theorem updateFirings_late (s : State) : KeepsFirings (retime s) (updateFirings s) := by
  refine foldl_takeLate_keepsFirings _ _ fun f mem => ?_
  obtain ⟨queued, due⟩ := List.mem_filter.mp mem
  have behind : ahead s.web.position f.firePoint = false := by simpa [reached_eq_not_ahead] using due
  rw [← retime_inForce s f queued]
  exact behind

theorem updateFirings_keepsFirings (s : State) : KeepsFirings s (updateFirings s) :=
  (retime_keepsFirings s).trans (updateFirings_late s)

theorem updateFirings_inForce (s : State) : FirePointsInForce (updateFirings s) :=
  (updateFirings_late s).inForce (retime_inForce s)

theorem evalHunting_same (s : State) : SameExcept [.links, .line, .ev] s (evalHunting s) := by
  unfold evalHunting
  split
  · split
    · exact setHold_same _ _ s
    · exact .refl s
  · exact setHold_same _ _ s

theorem updateTravel_same (s : State) : SameExcept [.belt] s (updateTravel s) := by
  unfold updateTravel
  split
  · split
    · exact setBelt_same _
    · exact .refl s
  · split
    · exact setBelt_same _
    · exact .refl s

theorem updateStack_same (s : State) : SameExcept [.acc, .links, .line, .ev] s (updateStack s) :=
  (examObligation_same s).comp (evalAccBlocked_same _)

theorem updateStack_keepsFirings (s : State) : KeepsFirings s (updateStack s) :=
  .of_moves (Moves.here s).examObligation.evalAccBlocked (updateStack_same s)

theorem takePart_keepsFirings (s : State) (x : SpeedPart) : KeepsFirings s (takePart s x) := by
  cases x with
  | firings => exact event_keepsFirings updateFirings_keepsFirings s
  | stack => exact event_keepsFirings updateStack_keepsFirings s
  | hunting => exact event_keepsFirings (fun v => .of_moves (Moves.here v).evalHunting (evalHunting_same v)) s
  | belt => exact event_keepsFirings (fun v => .of_moves ((Moves.here v).updateTravel rfl) (updateTravel_same v)) s

/-- The Firing Scheduler's part puts the fire points in force, and the parts after it keep them so. -/
theorem foldl_takePart_inForce (xs : List SpeedPart) : ∀ s, FirePointsInForce s ∨ SpeedPart.firings ∈ xs →
    FirePointsInForce (xs.foldl takePart s) := by
  induction xs with
  | nil => exact fun s h => h.resolve_right (by simp)
  | cons x xs ih =>
    intro s h
    refine ih _ ?_
    rcases h with already | mem
    · exact .inl ((takePart_keepsFirings s x).inForce already)
    · rcases List.mem_cons.mp mem with rfl | later
      · exact .inl ((event_keepsFirings_rule updateFirings s).inForce (updateFirings_inForce _))
      · exact .inr later

/-- An empty queue is in force; a queue that is not has the Firing Scheduler take its part. -/
theorem inForce_or_firings_mem (s : State) : FirePointsInForce s ∨ SpeedPart.firings ∈ speedParts s := by
  cases queue : s.firing.queue with
  | nil => exact .inl fun f mem => by rw [queue] at mem; cases mem
  | cons f q => exact .inr (by simp [speedParts, queue])

/-- Whatever the order of the blocks, their parts of a speed update keep the queued firings and leave every fire point in
force. -/
theorem inFreeOrder_takePart (s : State) : KeepsFirings s (inFreeOrder takePart (speedParts s) s) ∧
    FirePointsInForce (inFreeOrder takePart (speedParts s) s) := by
  obtain ⟨ys, perm, order⟩ := inFreeOrder_eq_foldl takePart (speedParts s) s
  have parts : FirePointsInForce s ∨ SpeedPart.firings ∈ ys :=
    (inForce_or_firings_mem s).imp_right perm.mem_iff.mpr
  have drawn : KeepsFirings s s.drawn := .of_queue rfl rfl rfl
  rcases order with order | order <;> rw [order]
  · exact ⟨.foldl takePart_keepsFirings ys s, foldl_takePart_inForce ys s parts⟩
  · exact ⟨drawn.trans (.foldl takePart_keepsFirings ys _), foldl_takePart_inForce ys _ (parts.imp_left drawn.inForce)⟩

/-- The Web Position Unit's part of a speed update touches the web and the pending conditions alone (R27, R28). -/
theorem quiet_sampleSpeed_same (s : State) : SameExcept [.web, .links, .ev] s (quiet sampleSpeed s) := by
  have sample : SameExcept [.web, .links, .ev] s.begin (sampleSpeed s.begin) := by
    unfold sampleSpeed
    dsimp only
    split
    · exact (setWeb_same _).comp (raiseCond_same _ _ _)
    · exact (setWeb_same _).mono
  have begun : SameExcept [.web, .links, .ev] s (sampleSpeed s.begin) := (setEv_same _).comp sample
  exact begun.comp (quiet_same sampleSpeed s)

/-- A speed update outside the sweep: the blocks' parts follow the Web Position Unit's (R29). -/
theorem updateSpeeds_open (noSweep : s.line.sweep = false) :
    updateSpeeds s = inFreeOrder takePart (speedParts (quiet sampleSpeed s)) (quiet sampleSpeed s) := by
  unfold updateSpeeds
  dsimp only
  rw [noSweep]
  rfl

/-- R30 and R97: after a speed update outside the sweep every fire point is in force, and a knife firing whose new fire
point is ahead of P is still queued. -/
theorem updateSpeeds_firings (noSweep : s.line.sweep = false) :
    FirePointsInForce (updateSpeeds s) ∧
      ∀ f ∈ s.firing.queue, ∀ row, f.actuator = .knife row →
        ahead (updateSpeeds s).web.position (firePointOf (updateSpeeds s) f.actuator f.target) = true →
        { f with firePoint := firePointOf (updateSpeeds s) f.actuator f.target } ∈ (updateSpeeds s).firing.queue := by
  rw [updateSpeeds_open noSweep]
  obtain ⟨keeps, inForce⟩ := inFreeOrder_takePart (quiet sampleSpeed s)
  refine ⟨inForce, fun f mem row knife future => ?_⟩
  rw [keeps.web, keeps.firePointOf_eq] at future
  have sampled : f ∈ (quiet sampleSpeed s).firing.queue := by
    rw [quiet_sampleSpeed_same s .firing (by decide)]
    exact mem
  obtain ⟨g, queued, act, target⟩ := keeps.knives f sampled row knife future
  rw [← act, ← target, ← inForce g queued]
  exact queued

/-- Settles O16, by the arithmetic of the lead, by the join of a firing made ahead of P, and by what the blocks' parts of a
speed update keep of the queued firings in any order. -/
theorem leadFollowsTheSpeed : Obligations.LeadFollowsTheSpeed := by
  unfold Obligations.LeadFollowsTheSpeed
  refine ⟨fun _ _ => rfl, fun _ _ => lead_le, lead_at_rest, fun _ _ _ _ _ => ⟨rfl, rfl⟩, ?joins, ?update⟩
  case joins =>
    intro a target d s room future f
    rw [makeFiring_ahead d room future]
    exact mem_joinQueue
  case update =>
    intro s t noSweep run
    cases run
    exact updateSpeeds_firings noSweep

end Sys2Proof.Machine
end

section
/-! PROOFS. The statements of chapter 9, line supervision. First the answer BUSY to a request taken while the sweep runs;
then what STOP does in each state of the line. -/

namespace Sys2Proof.Machine

variable {s : State}

/-! ### Requests taken while the sweep runs (R175) -/

/-- Answering the request at the head of a queue at once, before any rule has acted, changes nothing but its port. -/
theorem Waits.answer_begun {p : Port} {r : Request} (w : Waits p r s) (k : Byte) (x : Result) :
    answer p k (.plain x) (popRequest p s).begin = answered p k x [] s := by
  have popped : (popRequest p s).begin.port p = { s.port p with queue := (s.port p).queue.tail } :=
    State.setPort_port_self s p _
  have up : ((popRequest p s).begin.port p).link = .up := by rw [popped]; exact w.up
  have top : topBytes (popRequest p s).begin p = topBytes s p := topBytes_congr (by rw [popped]) rfl rfl
  rw [answer_idle p k _ rfl up, popped]
  unfold replyFrame
  rw [top]
  cases p <;> rfl

/-- While the sweep runs a request without the overrun mark, READ STATUS apart, is answered BUSY whatever its rule. -/
theorem Waits.busy {p : Port} {k : RequestKind} {body : List Byte}
    (w : Waits p { kind := k.code, body := body, overrun := false } s) (kind : requestKindOn p k.code = some k)
    (notStatus : (k != .readStatus) = true) (sweep : s.line.sweep = true) (rule : Rule) :
    takeRequest p k rule s = answered p k.code .busy [] s := by
  have take : s.takeable p = some { kind := k.code, body := body, overrun := false } := by
    unfold State.takeable
    rw [w.sent]
    exact w.head
  have busy : ((popRequest p s).begin.line.sweep && k != .readStatus) = true := by
    rw [notStatus, Bool.and_true]
    exact sweep
  unfold takeRequest decideRequest
  rw [take]
  dsimp only
  rw [if_pos kind, if_neg Bool.false_ne_true, if_pos busy]
  exact w.answer_begun _ _

/-! ### STOP (R156) -/

theorem exec_stop (s : State) : exec .stop s = .next (takeRequest .line .stop stopRule s) := rfl

theorem stopRule_running (h : s.line.state = .running) :
    stopRule [] s = (s.setLine { s.line with state := .stopped, stopPoint := s.web.position }, .plain .done) := if_pos h

theorem stopRule_notRunning (h : s.line.state ≠ .running) : stopRule [] s = (s, .plain .wrongState) := if_neg h

/-- PERMIT is asserted in RUNNING alone (R153). -/
theorem State.permit_of_notRunning (h : s.line.state ≠ .running) : s.permit = false := decide_eq_false h

/-- HOLD is asserted in RUNNING alone (R153). -/
theorem State.holdLine_of_notRunning (h : s.line.state ≠ .running) : s.holdLine = false := by
  unfold State.holdLine
  rw [decide_eq_false h, Bool.false_and]

/-- STOP of a RUNNING line. -/
theorem stop_running (asks : Asks .line .stop [] s) (h : s.line.state = .running) :
    exec .stop s = .next { answered .line RequestKind.stop.code .done [] s with
      line := { s.line with state := .stopped, stopPoint := s.web.position } } := by
  rw [exec_stop, asks.exact (stopRule_running (s := (popRequest .line s).begin) h) rfl rfl rfl rfl]
  rfl

/-- STOP of a line that is STOPPED or FAULTED. -/
theorem stop_notRunning (asks : Asks .line .stop [] s) (h : s.line.state ≠ .running) :
    exec .stop s = .next (answered .line RequestKind.stop.code .wrongState [] s) := by
  rw [exec_stop, asks.refused (stopRule_notRunning (s := (popRequest .line s).begin) h)]

/-- STOP while the sweep runs. -/
theorem stop_sweeping (waits : Waits .line { kind := RequestKind.stop.code, body := [], overrun := false } s)
    (h : s.line.sweep = true) : exec .stop s = .next (answered .line RequestKind.stop.code .busy [] s) := by
  rw [exec_stop, waits.busy (by decide) (by decide) h]

/-- Settles O28, by what STOP does in each state of the line; the output lines follow from the state it leaves. -/
theorem stopKeepsTheContents : Obligations.StopKeepsTheContents := by
  unfold Obligations.StopKeepsTheContents
  intro s
  refine ⟨fun asks running => ⟨_, stop_running asks running, ?permit, ?hold, rfl⟩, stop_notRunning, stop_sweeping⟩
  case permit => exact State.permit_of_notRunning (by simp)
  case hold => exact State.holdLine_of_notRunning (by simp)

end Sys2Proof.Machine
end

section
/-! PROOFS. What every step keeps, by the moves that a step is made of: the line, the belt and the folder, the jog
obligation, the Set Table, the capacities, the first causes; and what a command may change. -/

namespace Sys2Proof.Machine

variable {c : During} {g : Bool} {s t u v : State}

/-! ### The line (R153, R159, R165) -/

/-- A line that differs only in its hold-cause set is as sound. -/
theorem LineOk.setHolds {l : Supervisor} (h : LineOk l) (x : HoldSet) : LineOk { l with holds := x } :=
  ⟨h.guardClosed, h.recordEmpty, h.recordHeld, h.sweeping⟩

/-- The line right after a cold-start power-up: FAULTED with COLD_START, the sweep running. -/
theorem LineOk.coldStart (x : Guard) (s : State) : LineOk (coldStart x s).line where
  guardClosed running := nomatch running
  recordEmpty other := absurd rfl other
  recordHeld _ := rfl
  sweeping _ := rfl

theorem Move.lineOk (m : Move c g u v) (h : LineOk u.line) : LineOk v.line := by
  cases m with
  | obligation o => exact h.setHolds _
  | emptied => exact h.setHolds _
  | line x change => exact change.ok h
  | cold _ _ x => exact .coldStart x u
  | _ => exact h

/-- Settles O3: every move keeps the line sound. -/
theorem lineStaysSound : Obligations.LineStaysSound := by
  unfold Obligations.LineStaysSound
  exact fun s t h run => step_keeps (P := fun s => LineOk s.line) (fun _ _ _ m => m.lineOk) (fun _ _ => id) run h

/-! ### The belt and the folder (R126, R139) -/

theorem inFolder_le_one (f : Folder) : inFolder f ≤ 1 := by unfold inFolder; split <;> omega

theorem inFolder_of_none {f : Folder} (h : f.set = none) : inFolder f = 0 := by simp [inFolder, h]

theorem inFolder_of_some {f : Folder} (h : f.set.isSome) : inFolder f = 1 := by simp [inFolder, h]

theorem inFolder_congr {f f' : Folder} (h : f'.set = f.set) : inFolder f' = inFolder f := by unfold inFolder; rw [h]

theorem inRelease_le_one (a : Accumulator) : inRelease a ≤ 1 := by unfold inRelease; split <;> omega

theorem inRelease_of_releasing {a : Accumulator} (h : a.state = .releasing) : inRelease a = 1 := if_pos h

theorem inRelease_of_not {a : Accumulator} (h : a.state ≠ .releasing) : inRelease a = 0 := if_neg h

theorem inRelease_mono {a b : Accumulator} (h : b.state = .releasing → a.state = .releasing) :
    inRelease b ≤ inRelease a := by
  by_cases r : b.state = .releasing
  · rw [inRelease_of_releasing r, inRelease_of_releasing (h r)]
  · rw [inRelease_of_not r]; exact Nat.zero_le _

/-- A move takes a set from one place to the next, or starts a release where fewer than 3 sets are on the belt and none is
in the folder. -/
theorem Move.beltOk (m : Move c g u v) (h : BeltOk u) : BeltOk v := by
  have most := h.atMostThree
  cases m with
  | acc x _ released =>
    have fewer := inRelease_mono released
    exact ⟨h.idleEmpty, by simp only [State.setAcc_belt, State.setAcc_folder, State.setAcc_acc]; omega⟩
  | obligation o => exact ⟨h.idleEmpty, most⟩
  | handOver x _ idle few =>
    have empty := inFolder_of_none (h.idleEmpty idle)
    have one := inRelease_le_one x
    exact ⟨h.idleEmpty, by simp only [State.setAcc_belt, State.setAcc_folder, State.setAcc_acc]; omega⟩
  | emptied => exact ⟨h.idleEmpty, le_trans (Nat.add_le_add_left (Nat.zero_le _) _) most⟩
  | folder x kept =>
    rcases kept with none | ⟨same, idle⟩
    · have zero := inFolder_of_none none
      exact ⟨fun _ => none, by simp only [State.setFolder_belt, State.setFolder_folder, State.setFolder_acc]; omega⟩
    · have count := inFolder_congr same
      exact ⟨fun i => same.trans (h.idleEmpty (idle i)),
        by simp only [State.setFolder_belt, State.setFolder_folder, State.setFolder_acc]; omega⟩
  | enter a f _ _ before after idle busy =>
    have empty := inFolder_of_none (h.idleEmpty idle)
    have one := inFolder_le_one f
    have from_ := inRelease_of_releasing before
    have gone := inRelease_of_not after
    exact ⟨fun i => absurd i busy, by
      simp only [State.setFolder_belt, State.setFolder_folder, State.setFolder_acc, State.setAcc_acc, State.setAcc_belt]
      omega⟩
  | exit f b _ held left longer =>
    have one := inFolder_of_some held
    have zero := inFolder_of_none left
    exact ⟨fun _ => left, by
      simp only [State.setBelt_belt, State.setBelt_folder, State.setFolder_folder, State.setBelt_acc, State.setFolder_acc]
      omega⟩
  | belt x _ shorter =>
    exact ⟨h.idleEmpty, by simp only [State.setBelt_belt, State.setBelt_folder, State.setBelt_acc]; omega⟩
  | cold => exact ⟨fun _ => rfl, Nat.zero_le _⟩
  | _ => exact ⟨h.idleEmpty, most⟩

/-- Settles O5: every move keeps the count of the sets on the belt, in the folder and in a release. -/
theorem beltAndFolderHoldAtMostThree : Obligations.BeltAndFolderHoldAtMostThree := by
  unfold Obligations.BeltAndFolderHoldAtMostThree
  exact fun s t h run => step_keeps (fun _ _ _ m => m.beltOk) (fun _ _ k => ⟨k.idleEmpty, k.atMostThree⟩) run h

/-! ### The jog obligation (R122) -/

/-- The obligation and its hold cause move together. -/
theorem Move.jogOk (m : Move c g u v) (h : JogOk u) : JogOk v := by
  unfold JogOk at h ⊢
  cases m with
  | acc x same => simpa [same] using h
  | handOver x same => simpa [same] using h
  | enter a f _ same => simpa [same] using h
  | obligation o => simp [HoldSet.put]
  | emptied => rfl
  | line x change => simpa [change.jog] using h
  | cold => rfl
  | _ => exact h

/-- Settles O6: every move keeps the hold cause with the obligation. -/
theorem jogForcedFollowsTheObligation : Obligations.JogForcedFollowsTheObligation := by
  unfold Obligations.JogForcedFollowsTheObligation
  exact fun s t h run => step_keeps (fun _ _ _ m => m.jogOk) (fun _ _ => id) run h

/-! ### The Set Table (R2) -/

/-- The tag is derived from the number. -/
theorem SetRec.tag_congr {r r' : SetRec} (h : r'.number = r.number) : r'.tag = r.tag := by unfold SetRec.tag; rw [h]

theorem TableOk.of_records {a b : SetTable} (h : TableOk a) (e : b.records = a.records) : TableOk b :=
  ⟨e ▸ h.atMost64, e ▸ h.numbers, e ▸ h.tags⟩

/-- Records changed in place, each keeping its number. -/
theorem TableOk.map {a : SetTable} (h : TableOk a) (f : SetRec → SetRec) (number : ∀ r ∈ a.records, (f r).number = r.number) :
    TableOk { a with records := a.records.map f } := by
  have numbers : (a.records.map f).map SetRec.number = a.records.map SetRec.number := by
    rw [List.map_map]; exact List.map_congr_left number
  have tags : (a.records.map f).map SetRec.tag = a.records.map SetRec.tag := by
    rw [List.map_map]; exact List.map_congr_left fun r mem => SetRec.tag_congr (number r mem)
  exact ⟨by simpa using h.atMost64, numbers ▸ h.numbers, tags ▸ h.tags⟩

/-- Records leave. -/
theorem TableOk.filter {a : SetTable} (h : TableOk a) (keep : SetRec → Bool) :
    TableOk { a with records := a.records.filter keep } :=
  ⟨(List.length_filter_le ..).trans h.atMost64, h.numbers.sublist (List.filter_sublist.map _),
    h.tags.sublist (List.filter_sublist.map _)⟩

/-- A record joins with room left, its number and its tag free. -/
theorem TableOk.append {a : SetTable} (h : TableOk a) (r : SetRec) (room : a.records.length < 64)
    (number : ∀ x ∈ a.records, x.number ≠ r.number) (tag : ∀ x ∈ a.records, x.tag ≠ r.tag) :
    TableOk { a with records := a.records ++ [r] } := by
  have joins : ∀ f : SetRec → Nat, (a.records.map f).Nodup → (∀ x ∈ a.records, f x ≠ f r) →
      ((a.records ++ [r]).map f).Nodup := by
    intro f nodup free
    rw [List.map_append, List.nodup_append]
    refine ⟨nodup, List.nodup_singleton _, ?_⟩
    intro x hx y hy
    obtain ⟨z, mem, rfl⟩ := List.mem_map.mp hx
    rw [List.map_singleton, List.mem_singleton] at hy
    rw [hy]
    exact free z mem
  exact ⟨by simp; omega, joins _ h.numbers number, joins _ h.tags tag⟩

theorem Move.tableOk (m : Move c g u v) (h : TableOk u.table) : TableOk v.table := by
  cases m with
  | lists x same => exact h.of_records same
  | records f change => exact h.map f fun r mem => (change r mem).number
  | free keep => exact h.filter keep
  | load r _ room number tag => exact h.append r room number tag
  | cold => exact ⟨Nat.zero_le _, List.nodup_nil, List.nodup_nil⟩
  | _ => exact h

/-- Settles O7: every move keeps the records few and distinct. -/
theorem tableStaysDistinct : Obligations.TableStaysDistinct := by
  unfold Obligations.TableStaysDistinct
  exact fun s t h run => step_keeps (P := fun s => TableOk s.table) (fun _ _ _ m => m.tableOk) (fun _ _ => id) run h

/-! ### The capacities (R27, R63, R65, R90) -/

theorem Move.roomOk (m : Move c g u v) (h : RoomOk u) : RoomOk v := by
  obtain ⟨sheets, firings, ids, speed⟩ := h
  cases m with
  | web x _ _ slow => exact ⟨sheets, firings, ids, slow.trans (max_le le_rfl speed)⟩
  | track x room next => exact ⟨room.elim (·.trans sheets) (·.2), firings, next.elim (·.trans_lt ids) id, speed⟩
  | firing x room => exact ⟨sheets, room.trans (max_le le_rfl firings), ids, speed⟩
  | cold => exact ⟨Nat.zero_le _, Nat.zero_le _, Nat.zero_lt_succ _, Nat.zero_le _⟩
  | _ => exact ⟨sheets, firings, ids, speed⟩

/-- Settles O9: every move keeps the capacities. -/
theorem capacitiesHold : Obligations.CapacitiesHold := by
  unfold Obligations.CapacitiesHold
  exact fun s t h run =>
    step_keeps (fun _ _ _ m => m.roomOk) (fun _ _ k => ⟨k.sheets, k.firings, k.sheetIds, k.speed⟩) run h

/-! ### What stays of a record (R6, R12) -/

/-- Every record of number n has Q; and while a LOAD SET is carried out one is held, so that none of that number joins. -/
def NumberKeeps (c : During) (n : Nat) (Q : SetRec → Prop) (w : State) : Prop :=
  (∀ x ∈ w.table.records, x.number = n → Q x) ∧ (c.cmd = some .loadSet → ∃ x ∈ w.table.records, x.number = n)

theorem Move.numberKeeps {n : Nat} {Q : SetRec → Prop} (change : ∀ x y, RecordMove c x y → Q x → Q y) (m : Move c g u v)
    (h : NumberKeeps c n Q u) : NumberKeeps c n Q v := by
  obtain ⟨all, held⟩ := h
  cases m with
  | lists x records => exact ⟨records ▸ all, records ▸ held⟩
  | records f moved =>
    refine ⟨fun y memY number => ?_, fun load => ?_⟩
    · obtain ⟨x, memX, rfl⟩ := List.mem_map.mp memY
      exact change x _ (moved x memX) (all x memX ((moved x memX).number.symm.trans number))
    · obtain ⟨x, memX, number⟩ := held load
      exact ⟨f x, List.mem_map_of_mem memX, (moved x memX).number.trans number⟩
  | free keep take =>
    exact ⟨fun x memX => all x (List.mem_of_mem_filter memX),
      fun load => by rcases take with take | take <;> cases load.symm.trans take⟩
  | load x load _ free _ =>
    obtain ⟨y, memY, number⟩ := held load
    refine ⟨fun z memZ other => ?_, fun _ => ⟨y, List.mem_append_left _ memY, number⟩⟩
    rcases List.mem_append.mp memZ with old | new
    · exact all z old other
    · rw [List.mem_singleton.mp new] at other
      exact absurd (number.trans other.symm) (free y memY)
  | cold _ _ _ power =>
    exact ⟨fun x memX => absurd memX List.not_mem_nil, fun load => by cases power.symm.trans load⟩
  | _ => exact ⟨all, held⟩

/-- What every change of a record keeps is kept of the records of one number, as long as one is held: no record of a held
number joins the table. -/
theorem Moves.record_keeps {Q : SetRec → Prop} (change : ∀ x y, RecordMove c x y → Q x → Q y) (h : Moves c g s t)
    (table : TableOk s.table) {r r' : SetRec} (mem : r ∈ s.table.records) (q : Q r) (mem' : r' ∈ t.table.records)
    (same : r'.number = r.number) : Q r' := by
  have start : NumberKeeps c r.number Q s :=
    ⟨fun x memX number => List.inj_on_of_nodup_map table.numbers memX mem number ▸ q, fun _ => ⟨r, mem, rfl⟩⟩
  exact (h.keeps (fun _ _ m => m.numberKeeps change) start).1 r' mem' same

/-- Settles O11: a change of a record keeps its cause once it has one. -/
theorem firstCauseStays : Obligations.FirstCauseStays := by
  unfold Obligations.FirstCauseStays
  intro s t r r' k table run mem cause mem' same
  have change : ∀ (c : During) x y, RecordMove c x y → x.cause = some k → y.cause = some k :=
    fun _ x y m q => (m.cause (by rw [q]; rfl)).trans q
  unfold step at run
  split at run
  · cases run
    exact (idle_moves s).record_keeps (change _) table mem cause mem' same
  · exact (exec_moves _ run).record_keeps (change _) table mem cause mem' same

theorem SameDeclared.trans {a b d : SetRec} (h : SameDeclared a b) (k : SameDeclared b d) : SameDeclared a d :=
  ⟨k.number.trans h.number, k.jobId.trans h.jobId, k.pages.trans h.pages, k.priority.trans h.priority,
    k.program.trans h.program⟩

/-- What the moves of a command other than a cold power-up change of the profile, the geometry and the position. -/
theorem Move.configuration (m : Move c g u v) (warm : ∀ closed, c.cmd ≠ some (.powerUp false closed)) :
    (c.cmd ≠ some .loadProfile →
      v.table.profile = u.table.profile ∧ v.table.profileLoaded = u.table.profileLoaded) ∧
    (c.cmd ≠ some .loadGeometry →
      v.line.geometry = u.line.geometry ∧ v.line.geometryLoaded = u.line.geometryLoaded) ∧
    ((∀ d, c.cmd ≠ some (.encoderStep d)) → v.web.position = u.web.position) := by
  cases m with
  | web x _ position => exact ⟨fun _ => ⟨rfl, rfl⟩, fun _ => ⟨rfl, rfl⟩,
      fun other => position.resolve_right fun ⟨d, e⟩ => other d e⟩
  | lists x _ profile => exact ⟨profile.resolve_right, fun _ => ⟨rfl, rfl⟩, fun _ => rfl⟩
  | line x change => exact ⟨fun _ => ⟨rfl, rfl⟩, change.geometry.resolve_right, fun _ => rfl⟩
  | cold retain closed _ power cold => subst cold; exact absurd power (warm closed)
  | _ => exact ⟨fun _ => ⟨rfl, rfl⟩, fun _ => ⟨rfl, rfl⟩, fun _ => rfl⟩

theorem Moves.configuration (h : Moves c g s t) (warm : ∀ closed, c.cmd ≠ some (.powerUp false closed)) :
    (c.cmd ≠ some .loadProfile →
      t.table.profile = s.table.profile ∧ t.table.profileLoaded = s.table.profileLoaded) ∧
    (c.cmd ≠ some .loadGeometry →
      t.line.geometry = s.line.geometry ∧ t.line.geometryLoaded = s.line.geometryLoaded) ∧
    ((∀ d, c.cmd ≠ some (.encoderStep d)) → t.web.position = s.web.position) := by
  induction h with
  | refl => exact ⟨fun _ => ⟨rfl, rfl⟩, fun _ => ⟨rfl, rfl⟩, fun _ => rfl⟩
  | tail _ m ih =>
    obtain ⟨profile, geometry, position⟩ := ih
    obtain ⟨profile', geometry', position'⟩ := m.configuration warm
    exact ⟨fun k => ⟨(profile' k).1.trans (profile k).1, (profile' k).2.trans (profile k).2⟩,
      fun k => ⟨(geometry' k).1.trans (geometry k).1, (geometry' k).2.trans (geometry k).2⟩,
      fun k => (position' k).trans (position k)⟩

/-- Settles O13: a command's moves change a declared field, the profile, the geometry or the position only where the
command is the one that may. -/
theorem whoMayChangeWhat : Obligations.WhoMayChangeWhat := by
  unfold Obligations.WhoMayChangeWhat
  intro c s t warm table run
  have moves := exec_moves c run
  obtain ⟨profile, geometry, position⟩ := moves.configuration fun closed e => warm closed (Option.some.inj e)
  refine ⟨fun k r mem r' mem' same => ?declared, fun k => profile (k ∘ Option.some.inj),
    fun k => geometry (k ∘ Option.some.inj), fun k => position fun d e => k d (Option.some.inj e)⟩
  case declared =>
    have change : ∀ x y, RecordMove (.of c) x y → SameDeclared r x → SameDeclared r y :=
      fun x y m q => q.trans (m.declared.resolve_right (k ∘ Option.some.inj))
    exact moves.record_keeps change table mem ⟨rfl, rfl, rfl, rfl, rfl⟩ mem' same

end Sys2Proof.Machine
end

section
/-! PROOFS. The pending conditions and the outcome queues. An act is one of the few updates that reach the pending
conditions, the records or the outcome queues; first what each act keeps of them, then that every operation is a sequence
of acts, and last that every step keeps the ports in bounds and the outcome queues in order. -/

namespace Sys2Proof.Machine

variable {s t u v : State}

/-! ### Pending conditions in priority order (Table 10-4, R178) -/

/-- The pending conditions of port p are its own and stand in priority order without repeats. -/
structure CondsOk (p : Port) (xs : List PendingCond) : Prop where
  own : ∀ c ∈ xs, c.cond.port = p
  ordered : (xs.map fun c => c.cond.code).Pairwise (· < ·)

theorem CondsOk.nil (p : Port) : CondsOk p [] := ⟨nofun, .nil⟩

/-- No two conditions have one code. -/
theorem Cond.code_injective : Function.Injective Cond.code := by
  intro a b h
  revert h
  cases a <;> cases b <;> decide

theorem mem_insertCond {x y : PendingCond} {xs : List PendingCond} : y ∈ insertCond x xs ↔ y = x ∨ y ∈ xs := by
  induction xs with
  | nil => simp [insertCond]
  | cons z xs ih =>
    unfold insertCond
    split
    · simp
    · simp [ih, or_left_comm]

theorem insertCond_ordered {x : PendingCond} {xs : List PendingCond} (ordered : (xs.map fun c => c.cond.code).Pairwise (· < ·))
    (new : ∀ y ∈ xs, y.cond ≠ x.cond) : ((insertCond x xs).map fun c => c.cond.code).Pairwise (· < ·) := by
  induction xs with
  | nil => simp [insertCond]
  | cons y xs ih =>
    rw [List.map_cons, List.pairwise_cons] at ordered
    obtain ⟨first, rest⟩ := ordered
    unfold insertCond
    split
    · rename_i less
      simp only [List.map_cons, List.pairwise_cons]
      refine ⟨fun k mem => ?_, first, rest⟩
      rcases List.mem_cons.mp mem with rfl | later
      · exact less
      · exact less.trans (first k later)
    · rename_i notLess
      rw [List.map_cons, List.pairwise_cons]
      refine ⟨fun k mem => ?_, ih rest fun z mem => new z (List.mem_cons_of_mem _ mem)⟩
      obtain ⟨z, memZ, rfl⟩ := List.mem_map.mp mem
      rcases mem_insertCond.mp memZ with rfl | old
      · have other : y.cond.code ≠ z.cond.code := fun e => new y List.mem_cons_self (Cond.code_injective e)
        omega
      · exact first _ (List.mem_map_of_mem old)

theorem CondsOk.insert {p : Port} {x : PendingCond} {xs : List PendingCond} (h : CondsOk p xs) (own : x.cond.port = p)
    (new : ∀ y ∈ xs, y.cond ≠ x.cond) : CondsOk p (insertCond x xs) where
  own c mem := by
    rcases mem_insertCond.mp mem with rfl | old
    · exact own
    · exact h.own c old
  ordered := insertCond_ordered h.ordered new

theorem CondsOk.filter {p : Port} {xs : List PendingCond} (h : CondsOk p xs) (keep : PendingCond → Bool) :
    CondsOk p (xs.filter keep) :=
  ⟨fun c mem => h.own c (List.mem_of_mem_filter mem), h.ordered.sublist (List.filter_sublist.map _)⟩

/-- Pending conditions given other parameters. -/
theorem CondsOk.map {p : Port} {xs : List PendingCond} (h : CondsOk p xs) (f : PendingCond → PendingCond)
    (cond : ∀ x, (f x).cond = x.cond) : CondsOk p (xs.map f) where
  own c mem := by
    obtain ⟨x, old, rfl⟩ := List.mem_map.mp mem
    rw [cond]
    exact h.own x old
  ordered := by
    have codes : (xs.map f).map (fun c => c.cond.code) = xs.map fun c => c.cond.code := by
      rw [List.map_map]; exact List.map_congr_left fun x _ => congrArg Cond.code (cond x)
    rw [codes]
    exact h.ordered

/-- The pending conditions of the three ports. -/
def PortsOk (s : State) : Prop := ∀ p, CondsOk p (s.port p).conds

theorem PortsOk.setPort {p : Port} {x : PortState} (h : PortsOk s) (conds : CondsOk p x.conds) :
    PortsOk (s.setPort p x) := by
  intro q
  by_cases same : q = p
  · subst same; rw [State.setPort_port_self]; exact conds
  · rw [State.setPort_port_of_ne same]; exact h q

theorem PortsOk.raiseCond (h : PortsOk s) (k : Cond) (x : CondParam) : PortsOk (raiseCond k x s) := by
  unfold Machine.raiseCond
  dsimp only
  split
  · refine h.setPort ((h k.port).map _ fun y => ?_)
    split <;> rfl
  · rename_i new
    refine PortsOk.setPort (s := s) h ((h k.port).insert rfl fun y mem same => new ?_)
    exact List.any_eq_true.mpr ⟨y, mem, beq_iff_eq.mpr same⟩

theorem PortsOk.removeCond (h : PortsOk s) (k : Cond) : PortsOk (removeCond k s) := h.setPort ((h k.port).filter _)

/-! ### The outcome queues while an event is under way (R8) -/

/-- The outcome queues while the sets given became terminal at the event under way and have not yet joined them. -/
structure OutcomesMid (t : SetTable) (ended : List Nat) : Prop where
  table : TableOk t
  once : (t.completion ++ ended).Nodup
  terminal : ∀ n ∈ t.completion ++ ended, ∃ r ∈ t.records, r.number = n ∧ r.state.terminal = true ∧ r.reported = false
  whole : ∀ r ∈ t.records, r.state.terminal = true → r.reported = false → r.number ∈ t.completion ++ ended
  reportedHeld : ∀ r ∈ t.records, r.reported = true → r.state.terminal = true ∧ r.number ∈ t.reprint
  reprintOnce : t.reprint.Nodup
  reprintDiverted : ∀ n ∈ t.reprint, n ∉ ended ∧ ∃ r ∈ t.records, r.number = n ∧ r.reprints = true
  reprintOrdered : t.reprint.Pairwise t.reprintsBefore

theorem outcomesMid_nil_iff (t : SetTable) : OutcomesMid t [] ↔ OutcomesOk t := by
  constructor
  · intro h
    exact ⟨h.table, by simpa using h.once, by simpa using h.terminal, by simpa using h.whole, h.reportedHeld, h.reprintOnce,
      fun n mem => (h.reprintDiverted n mem).2, h.reprintOrdered⟩
  · intro h
    exact ⟨h.table, by simpa using h.completionOnce, by simpa using h.completionEnded, by simpa using h.completionWhole,
      h.reportedHeld, h.reprintOnce, fun n mem => ⟨List.not_mem_nil, h.reprintDiverted n mem⟩, h.reprintOrdered⟩

/-- The records of one number are one record. -/
theorem TableOk.unique {a : SetTable} (h : TableOk a) {r r' : SetRec} (mem : r ∈ a.records) (mem' : r' ∈ a.records)
    (same : r.number = r'.number) : r = r' := List.inj_on_of_nodup_map h.numbers mem mem' same

theorem TableOk.find {a : SetTable} (h : TableOk a) {r : SetRec} (mem : r ∈ a.records) :
    (a.records.find? fun x => x.number == r.number) = some r := by
  cases found : a.records.find? fun x => x.number == r.number with
  | none => simpa using List.find?_eq_none.mp found r mem
  | some x =>
    have number : x.number = r.number := by simpa using List.find?_some found
    rw [h.unique (List.mem_of_find?_eq_some found) mem number]

theorem TableOk.priority {a : SetTable} (h : TableOk a) {r : SetRec} (mem : r ∈ a.records) :
    a.priority r.number = r.priority := by
  unfold SetTable.priority
  rw [h.find mem]

/-- A set that the Reprint Queue may hold is DIVERTED, so terminal. -/
theorem SetRec.terminal_of_reprints {r : SetRec} (h : r.reprints = true) : r.state.terminal = true := by
  have diverted : r.state = .diverted := by
    have both := Bool.and_eq_true_iff.mp h
    simpa using both.1
  rw [diverted]; rfl

/-- A change of a record that bears on no outcome. -/
structure RecordKept (r r' : SetRec) : Prop where
  number : r'.number = r.number
  terminal : r'.state.terminal = r.state.terminal
  reported : r'.reported = r.reported
  outcome : r.state.terminal = true → r'.reprints = r.reprints ∧ r'.priority = r.priority

theorem RecordKept.refl (r : SetRec) : RecordKept r r := ⟨rfl, rfl, rfl, fun _ => ⟨rfl, rfl⟩⟩

/-- A record that is in no terminal state before and after. -/
theorem RecordKept.alive {r r' : SetRec} (number : r'.number = r.number) (before : r.state.terminal = false)
    (after : r'.state.terminal = false) (reported : r'.reported = r.reported) : RecordKept r r' :=
  ⟨number, after.trans before.symm, reported, fun ended => by rw [before] at ended; cases ended⟩

theorem OutcomesMid.alive_of_unreported {a : SetTable} {ended : List Nat} (h : OutcomesMid a ended) {r : SetRec}
    (mem : r ∈ a.records) (alive : r.state.terminal = false) :
    r.reported = false ∧ r.number ∉ a.completion ++ ended ∧ r.number ∉ a.reprint := by
  refine ⟨?_, fun listed => ?_, fun queued => ?_⟩
  · cases rep : r.reported with
    | false => rfl
    | true => have held := (h.reportedHeld r mem rep).1; rw [alive] at held; cases held
  · obtain ⟨x, memX, number, term, _⟩ := h.terminal _ listed
    rw [h.table.unique memX mem number, alive] at term
    cases term
  · obtain ⟨x, memX, number, rep⟩ := (h.reprintDiverted _ queued).2
    have term := SetRec.terminal_of_reprints rep
    rw [h.table.unique memX mem number, alive] at term
    cases term

/-- The order of the Reprint Queue rests on the priorities of its sets and on the Completion Order. -/
theorem reprintsBefore_congr {a b : SetTable} {x y : Nat} (completion : b.completion = a.completion)
    (px : b.priority x = a.priority x) (py : b.priority y = a.priority y) (h : a.reprintsBefore x y) :
    b.reprintsBefore x y := by
  unfold SetTable.reprintsBefore at h ⊢
  rw [completion, px, py]
  exact h

theorem OutcomesMid.map {a : SetTable} {ended : List Nat} (h : OutcomesMid a ended) (f : SetRec → SetRec)
    (kept : ∀ r ∈ a.records, RecordKept r (f r)) : OutcomesMid { a with records := a.records.map f } ended := by
  have table := h.table.map f fun r mem => (kept r mem).number
  have priority : ∀ n ∈ a.reprint, SetTable.priority { a with records := a.records.map f } n = a.priority n := by
    intro n queued
    obtain ⟨r, mem, rfl, rep⟩ := (h.reprintDiverted n queued).2
    have after := table.priority (List.mem_map_of_mem mem)
    rw [(kept r mem).number, ((kept r mem).outcome (SetRec.terminal_of_reprints rep)).2] at after
    rw [after, h.table.priority mem]
  constructor
  case table => exact table
  case once => exact h.once
  case terminal =>
    intro n listed
    obtain ⟨r, mem, number, term, rep⟩ := h.terminal n listed
    exact ⟨f r, List.mem_map_of_mem mem, (kept r mem).number.trans number, (kept r mem).terminal.trans term,
      (kept r mem).reported.trans rep⟩
  case whole =>
    intro x memX term rep
    obtain ⟨r, mem, rfl⟩ := List.mem_map.mp memX
    rw [(kept r mem).number]
    exact h.whole r mem ((kept r mem).terminal.symm.trans term) ((kept r mem).reported.symm.trans rep)
  case reportedHeld =>
    intro x memX rep
    obtain ⟨r, mem, rfl⟩ := List.mem_map.mp memX
    rw [(kept r mem).number, (kept r mem).terminal]
    exact h.reportedHeld r mem ((kept r mem).reported.symm.trans rep)
  case reprintOnce => exact h.reprintOnce
  case reprintDiverted =>
    intro n queued
    obtain ⟨new, r, mem, number, rep⟩ := h.reprintDiverted n queued
    exact ⟨new, f r, List.mem_map_of_mem mem, (kept r mem).number.trans number,
      ((kept r mem).outcome (SetRec.terminal_of_reprints rep)).1.trans rep⟩
  case reprintOrdered =>
    exact h.reprintOrdered.imp_of_mem fun memX memY => reprintsBefore_congr (a := a) rfl (priority _ memX) (priority _ memY)

/-- A table with the records of number n changed by f. -/
def SetTable.updated (a : SetTable) (n : Nat) (f : SetRec → SetRec) : SetTable :=
  { a with records := a.records.map fun r => if r.number = n then f r else r }

theorem SetTable.mem_updated_other {a : SetTable} {n : Nat} {y : SetRec} (f : SetRec → SetRec) (mem : y ∈ a.records)
    (other : y.number ≠ n) : y ∈ (a.updated n f).records :=
  List.mem_map.mpr ⟨y, mem, if_neg other⟩

theorem SetTable.mem_updated_self {a : SetTable} {r : SetRec} (f : SetRec → SetRec) (mem : r ∈ a.records) :
    f r ∈ (a.updated r.number f).records :=
  List.mem_map.mpr ⟨r, mem, if_pos rfl⟩

/-- A record of a table updated at one of its records is that record updated, or another record as it was. -/
theorem TableOk.of_mem_updated {a : SetTable} (h : TableOk a) {r z : SetRec} {f : SetRec → SetRec} (mem : r ∈ a.records)
    (memZ : z ∈ (a.updated r.number f).records) : z = f r ∨ (z ∈ a.records ∧ z.number ≠ r.number) := by
  obtain ⟨y, memY, rfl⟩ := List.mem_map.mp memZ
  by_cases same : y.number = r.number
  · rw [if_pos same, h.unique memY mem same]; exact .inl rfl
  · rw [if_neg same]; exact .inr ⟨memY, same⟩

theorem TableOk.updated {a : SetTable} (h : TableOk a) (n : Nat) {f : SetRec → SetRec} (number : ∀ r, (f r).number = r.number) :
    TableOk (a.updated n f) := by
  refine h.map _ fun r _ => ?_
  split
  · exact number r
  · rfl

/-- A set in no terminal state becomes terminal (R8). -/
theorem OutcomesMid.finish {a : SetTable} {ended : List Nat} (h : OutcomesMid a ended) {r : SetRec} (mem : r ∈ a.records)
    (alive : r.state.terminal = false) {x : SetState} (term : x.terminal = true) :
    OutcomesMid (a.updated r.number (SetRec.put x)) (ended ++ [r.number]) := by
  obtain ⟨unreported, unlisted, unqueued⟩ := h.alive_of_unreported mem alive
  have put : SetRec.put x r = { r with state := x } := SetRec.put_open x alive
  have other : ∀ y ∈ a.records, y.state.terminal = true → y.number ≠ r.number := by
    intro y memY ended same
    rw [h.table.unique memY mem same, alive] at ended
    cases ended
  have stays : ∀ y ∈ a.records, y.state.terminal = true → y ∈ (a.updated r.number (SetRec.put x)).records :=
    fun y memY ended => SetTable.mem_updated_other _ memY (other y memY ended)
  have table := h.table.updated r.number (SetRec.put_number x)
  have priority : ∀ n ∈ a.reprint, (a.updated r.number (SetRec.put x)).priority n = a.priority n := by
    intro n queued
    obtain ⟨y, memY, rfl, rep⟩ := (h.reprintDiverted n queued).2
    rw [table.priority (stays y memY (SetRec.terminal_of_reprints rep)), h.table.priority memY]
  constructor
  case table => exact table
  case once =>
    rw [← List.append_assoc]
    exact List.nodup_append.mpr ⟨h.once, List.nodup_singleton _, fun n listed m last same =>
      unlisted ((List.mem_singleton.mp last) ▸ same ▸ listed)⟩
  case terminal =>
    intro n listed
    rw [← List.append_assoc, List.mem_append] at listed
    rcases listed with old | new
    · obtain ⟨y, memY, numberY, termY, repY⟩ := h.terminal n old
      exact ⟨y, stays y memY termY, numberY, termY, repY⟩
    · refine ⟨SetRec.put x r, SetTable.mem_updated_self _ mem, ?_⟩
      rw [put]
      exact ⟨(List.mem_singleton.mp new).symm, term, unreported⟩
  case whole =>
    intro z memZ termZ repZ
    rw [← List.append_assoc, List.mem_append]
    rcases h.table.of_mem_updated mem memZ with rfl | ⟨old, _⟩
    · exact .inr (List.mem_singleton.mpr (SetRec.put_number x r))
    · exact .inl (h.whole z old termZ repZ)
  case reportedHeld =>
    intro z memZ repZ
    rcases h.table.of_mem_updated mem memZ with rfl | ⟨old, _⟩
    · rw [put, show ({ r with state := x } : SetRec).reported = r.reported from rfl, unreported] at repZ
      cases repZ
    · exact h.reportedHeld z old repZ
  case reprintOnce => exact h.reprintOnce
  case reprintDiverted =>
    intro n queued
    obtain ⟨notEnded, y, memY, numberY, rep⟩ := h.reprintDiverted n queued
    refine ⟨fun listed => ?_, y, stays y memY (SetRec.terminal_of_reprints rep), numberY, rep⟩
    rcases List.mem_append.mp listed with old | new
    · exact notEnded old
    · exact unqueued ((List.mem_singleton.mp new) ▸ queued)
  case reprintOrdered =>
    exact h.reprintOrdered.imp_of_mem fun memX memY => reprintsBefore_congr (a := a) rfl (priority _ memX) (priority _ memY)

/-- The order in which the sets of an event join the queues is free as far as the queues' soundness goes. -/
theorem OutcomesMid.perm {a : SetTable} {ended other : List Nat} (h : OutcomesMid a ended) (p : ended.Perm other) :
    OutcomesMid a other where
  table := h.table
  once := (p.append_left _).nodup h.once
  terminal n listed := h.terminal n ((p.append_left _).mem_iff.mpr listed)
  whole r mem term rep := (p.append_left _).mem_iff.mp (h.whole r mem term rep)
  reportedHeld := h.reportedHeld
  reprintOnce := h.reprintOnce
  reprintDiverted n queued := ⟨fun listed => (h.reprintDiverted n queued).1 (p.mem_iff.mpr listed),
    (h.reprintDiverted n queued).2⟩
  reprintOrdered := h.reprintOrdered

theorem insertAscending_perm (n : Nat) (xs : List Nat) : (insertAscending n xs).Perm (n :: xs) := by
  induction xs with
  | nil => exact .refl _
  | cons m rest ih =>
    unfold insertAscending
    split
    · exact .refl _
    · exact (ih.cons m).trans (.swap n m rest)

theorem ascending_perm (xs : List Nat) : (ascending xs).Perm xs := by
  induction xs with
  | nil => exact .refl _
  | cons n xs ih => exact (insertAscending_perm n _).trans (ih.cons n)

/-- An element put behind those that satisfy p, and so ahead of the rest, stands in order. -/
theorem pairwise_place {R : Nat → Nat → Prop} {p : Nat → Bool} {n : Nat} (q : List Nat) (ordered : q.Pairwise R)
    (behind : ∀ m ∈ q, p m = true → R m n) (ahead : ∀ m ∈ q, p m = false → R n m)
    (down : ∀ a b, R a b → p b = true → p a = true) :
    (q.takeWhile p ++ n :: q.dropWhile p).Pairwise R := by
  induction q with
  | nil => simp
  | cons a q ih =>
    obtain ⟨first, rest⟩ := List.pairwise_cons.mp ordered
    cases pa : p a with
    | true =>
      rw [List.takeWhile_cons_of_pos pa, List.dropWhile_cons_of_pos pa, List.cons_append, List.pairwise_cons]
      refine ⟨fun m mem => ?_, ih rest (fun m mem => behind m (List.mem_cons_of_mem _ mem))
        fun m mem => ahead m (List.mem_cons_of_mem _ mem)⟩
      rcases List.mem_append.mp mem with taken | left
      · exact first m (List.takeWhile_sublist p |>.mem taken)
      · rcases List.mem_cons.mp left with rfl | dropped
        · exact behind a List.mem_cons_self pa
        · exact first m (List.dropWhile_sublist p |>.mem dropped)
    | false =>
      have no : ¬ p a = true := by rw [pa]; exact Bool.false_ne_true
      rw [List.takeWhile_cons_of_neg no, List.dropWhile_cons_of_neg no, List.nil_append, List.pairwise_cons]
      refine ⟨fun m mem => ahead m mem ?_, ordered⟩
      rcases List.mem_cons.mp mem with rfl | later
      · exact pa
      · cases pm : p m with
        | false => rfl
        | true => exact absurd (down a m (first m later) pm) no

/-- A set placed in the Reprint Queue (R10). -/
def SetTable.placed (a : SetTable) (n : Nat) : List Nat :=
  (a.reprint.takeWhile fun m => decide (a.priority n ≤ a.priority m)) ++ n ::
    (a.reprint.dropWhile fun m => decide (a.priority n ≤ a.priority m))

theorem SetTable.placed_perm (a : SetTable) (n : Nat) : (a.placed n).Perm (n :: a.reprint) := by
  unfold SetTable.placed
  exact List.perm_middle.trans (.of_eq (by rw [List.takeWhile_append_dropWhile]))

theorem SetTable.priority_eq (s : State) (n : Nat) : priorityOf s n = s.table.priority n := by
  unfold priorityOf SetTable.priority State.findSet
  rfl

theorem priority_le_of_reprintsBefore {a : SetTable} {x y : Nat} (h : a.reprintsBefore x y) : a.priority y ≤ a.priority x :=
  h.elim Nat.le_of_lt fun e => Nat.le_of_eq e.1

/-- A set joins the tail of the Completion Order: the sets before it stay in their order. -/
theorem reprintsBefore_completion_append {a : SetTable} {x y n : Nat} (new : x ≠ n) (h : a.reprintsBefore x y) :
    SetTable.reprintsBefore { a with completion := a.completion ++ [n] } x y := by
  refine h.imp id fun ⟨same, order⟩ => ⟨same, ?_⟩
  by_cases listed : x ∈ a.completion
  · obtain ⟨listedY, less⟩ := order.resolve_left fun no => no listed
    refine .inr ⟨List.mem_append_left _ listedY, ?_⟩
    show (a.completion ++ [n]).idxOf x < (a.completion ++ [n]).idxOf y
    rwa [List.idxOf_append_of_mem listed, List.idxOf_append_of_mem listedY]
  · exact .inl fun mem => (List.mem_append.mp mem).elim listed fun last => new (List.mem_singleton.mp last)

/-- The table once set n has joined the Completion Order and, if asked, the Reprint Queue (R8, R9, R10). -/
def SetTable.joined (a : SetTable) (n : Nat) (reprints : Bool) : SetTable :=
  { a with completion := a.completion ++ [n], reprint := if reprints then a.placed n else a.reprint }

/-- The set placed last in the Completion Order stands behind the sets of its priority. -/
theorem OutcomesMid.placed_ordered {a : SetTable} {n : Nat} {rest : List Nat} (h : OutcomesMid a (n :: rest)) :
    (a.placed n).Pairwise (SetTable.reprintsBefore { a with completion := a.completion ++ [n] }) := by
  have ended : n ∉ a.reprint := fun queued => (h.reprintDiverted n queued).1 List.mem_cons_self
  have unlisted : n ∉ a.completion := fun listed =>
    (List.nodup_append.mp h.once).2.2 n listed n List.mem_cons_self rfl
  refine pairwise_place a.reprint ?ordered ?behind ?ahead ?down
  case ordered =>
    exact h.reprintOrdered.imp_of_mem fun memX _ =>
      reprintsBefore_completion_append fun same => ended (same ▸ memX)
  case behind =>
    intro m queued least
    have le : a.priority n ≤ a.priority m := of_decide_eq_true least
    rcases le.lt_or_eq with less | same
    · exact .inl less
    · refine .inr ⟨same, ?_⟩
      have other : m ≠ n := fun e => ended (e ▸ queued)
      by_cases listed : m ∈ a.completion
      · refine .inr ⟨by simp, ?_⟩
        show (a.completion ++ [n]).idxOf m < (a.completion ++ [n]).idxOf n
        rw [List.idxOf_append_of_mem listed, List.idxOf_append_of_notMem unlisted]
        exact (List.idxOf_lt_length_iff.mpr listed).trans_le (Nat.le_add_right _ _)
      · exact .inl (by simp [listed, other])
  case ahead =>
    intro m _ less
    exact .inl (Nat.lt_of_not_le (of_decide_eq_false less))
  case down =>
    intro x y before least
    exact decide_eq_true ((of_decide_eq_true least).trans (priority_le_of_reprintsBefore (a := { a with completion := a.completion ++ [n] }) before))

/-- One set that became terminal joins the queues (R8). -/
theorem OutcomesMid.join {a : SetTable} {n : Nat} {rest : List Nat} (h : OutcomesMid a (n :: rest)) {r : SetRec}
    (mem : r ∈ a.records) (number : r.number = n) : OutcomesMid (a.joined n r.reprints) rest := by
  have ended : n ∉ a.reprint := fun queued => (h.reprintDiverted n queued).1 List.mem_cons_self
  have listing : a.completion ++ n :: rest = (a.completion ++ [n]) ++ rest := by simp
  have once := h.once
  rw [listing] at once
  constructor
  case table => exact h.table.of_records rfl
  case once => exact once
  case terminal => intro m listed; exact h.terminal m (by rw [listing]; exact listed)
  case whole =>
    intro x memX term rep
    show x.number ∈ (a.completion ++ [n]) ++ rest
    rw [← listing]
    exact h.whole x memX term rep
  case reportedHeld =>
    intro x memX rep
    obtain ⟨term, queued⟩ := h.reportedHeld x memX rep
    refine ⟨term, ?_⟩
    unfold SetTable.joined
    dsimp only
    split
    · exact (a.placed_perm n).mem_iff.mpr (List.mem_cons_of_mem _ queued)
    · exact queued
  case reprintOnce =>
    unfold SetTable.joined
    dsimp only
    split
    · exact (a.placed_perm n).nodup_iff.mpr (List.nodup_cons.mpr ⟨ended, h.reprintOnce⟩)
    · exact h.reprintOnce
  case reprintDiverted =>
    intro m queued
    have old : m ∈ a.reprint → m ∉ rest ∧ ∃ r ∈ a.records, r.number = m ∧ r.reprints = true := fun was =>
      ⟨fun later => (h.reprintDiverted m was).1 (List.mem_cons_of_mem _ later), (h.reprintDiverted m was).2⟩
    unfold SetTable.joined at queued
    dsimp only at queued
    split at queued
    · rename_i reprints
      rcases List.mem_cons.mp ((a.placed_perm n).mem_iff.mp queued) with rfl | was
      · exact ⟨fun later => (List.nodup_append.mp once).2.2 m (by simp) m later rfl, r, mem, number, reprints⟩
      · exact old was
    · exact old queued
  case reprintOrdered =>
    show (if r.reprints then a.placed n else a.reprint).Pairwise (SetTable.reprintsBefore { a with completion := a.completion ++ [n] })
    split
    · exact h.placed_ordered
    · exact h.reprintOrdered.imp_of_mem fun memX _ =>
        reprintsBefore_completion_append fun same => ended (same ▸ memX)

theorem joinReprintIf_table {n : Nat} {r : SetRec} (found : s.findSet n = some r) :
    (joinReprintIf n s).table = { s.table with reprint := if r.reprints then s.table.placed n else s.table.reprint } := by
  have placed : placeReprint s n s.table.reprint = s.table.placed n := by
    unfold placeReprint SetTable.placed
    simp only [SetTable.priority_eq]
  unfold joinReprintIf
  rw [found]
  dsimp only
  split
  · unfold joinReprint
    rw [placed]
    dsimp only
    split
    · exact raiseCond_same _ _ _ .table (by decide)
    · rfl
  · rfl

/-- What joining the queues makes of the table, for a set that has a record. -/
theorem joinQueues_joined {n : Nat} {r : SetRec} (found : s.findSet n = some r) :
    (joinQueues s n).table = s.table.joined n r.reprints := by
  have still : (joinCompletion n s).findSet n = some r :=
    (findSet_of_records (by rw [joinCompletion_table]) n).trans found
  unfold joinQueues
  rw [joinReprintIf_table still, joinCompletion_table]
  rfl

theorem OutcomesMid.find {a : SetTable} {n : Nat} {rest : List Nat} (h : OutcomesMid a (n :: rest)) :
    ∃ r ∈ a.records, r.number = n ∧ (a.records.find? fun x => x.number == n) = some r := by
  obtain ⟨r, mem, number, _⟩ := h.terminal n (List.mem_append_right _ List.mem_cons_self)
  exact ⟨r, mem, number, number ▸ h.table.find mem⟩

theorem OutcomesMid.joinAll (rest : List Nat) : ∀ s : State, OutcomesMid s.table rest →
    OutcomesMid (rest.foldl joinQueues s).table [] := by
  induction rest with
  | nil => exact fun s h => h
  | cons n rest ih =>
    intro s h
    obtain ⟨r, mem, number, found⟩ := h.find
    refine ih (joinQueues s n) ?_
    rw [joinQueues_joined (r := r) found]
    exact h.join mem number

/-- The sets that the event ended have joined the queues (R8). -/
theorem OutcomesMid.flushEnded (h : OutcomesMid s.table s.ev.ended) : OutcomesMid (flushEnded s).table [] :=
  OutcomesMid.joinAll _ _ (h.perm (ascending_perm _).symm)

end Sys2Proof.Machine
end

section
/-! PROOFS. What the requests that bring in a record or take an outcome make of the outcome queues. -/

namespace Sys2Proof.Machine

variable {s t u v : State}

theorem State.findSet_mem {n : Nat} {r : SetRec} (h : s.findSet n = some r) : r ∈ s.table.records ∧ r.number = n :=
  ⟨List.mem_of_find?_eq_some h, findSet_number h⟩

/-- A record that has come to no outcome joins the table (R11). -/
theorem OutcomesMid.append {a : SetTable} {ended : List Nat} (h : OutcomesMid a ended) (r : SetRec)
    (room : a.records.length < 64) (number : ∀ x ∈ a.records, x.number ≠ r.number) (tag : ∀ x ∈ a.records, x.tag ≠ r.tag)
    (alive : r.state.terminal = false) (unreported : r.reported = false) :
    OutcomesMid { a with records := a.records ++ [r] } ended := by
  have table := h.table.append r room number tag
  have priority : ∀ n ∈ a.reprint, SetTable.priority { a with records := a.records ++ [r] } n = a.priority n := by
    intro n queued
    obtain ⟨y, mem, rfl, _⟩ := (h.reprintDiverted n queued).2
    rw [table.priority (List.mem_append_left _ mem), h.table.priority mem]
  have old : ∀ x ∈ a.records ++ [r], x ∈ a.records ∨ x = r := fun x mem =>
    (List.mem_append.mp mem).imp_right List.mem_singleton.mp
  constructor
  case table => exact table
  case once => exact h.once
  case terminal =>
    intro n listed
    obtain ⟨y, mem, rest⟩ := h.terminal n listed
    exact ⟨y, List.mem_append_left _ mem, rest⟩
  case whole =>
    intro x mem term rep
    rcases old x mem with was | rfl
    · exact h.whole x was term rep
    · rw [alive] at term; cases term
  case reportedHeld =>
    intro x mem rep
    rcases old x mem with was | rfl
    · exact h.reportedHeld x was rep
    · rw [unreported] at rep; cases rep
  case reprintOnce => exact h.reprintOnce
  case reprintDiverted =>
    intro n queued
    obtain ⟨new, y, mem, rest⟩ := h.reprintDiverted n queued
    exact ⟨new, y, List.mem_append_left _ mem, rest⟩
  case reprintOrdered =>
    exact h.reprintOrdered.imp_of_mem fun memX memY => reprintsBefore_congr (a := a) rfl (priority _ memX) (priority _ memY)

/-! ### Freeing a record (R19) -/

theorem freeIfDone_table {n : Nat} {r : SetRec} (found : s.findSet n = some r) :
    (freeIfDone n s).table =
      if r.reported = true ∧ n ∉ s.table.reprint then
        { s.table with records := s.table.records.filter fun x => x.number ≠ n }
      else s.table := by
  unfold freeIfDone
  rw [found]
  by_cases done : r.reported = true ∧ n ∉ s.table.reprint
  · rw [if_pos done]
    dsimp only
    rw [if_pos (by simpa using done)]
    rfl
  · rw [if_neg done]
    dsimp only
    rw [if_neg (by simpa using done)]

/-- Table b is table a but for the records of number n: of these it holds exactly r, and that only if it is kept. -/
structure OnlyRecord (a b : SetTable) (n : Nat) (r : SetRec) (kept : Prop) : Prop where
  others : ∀ z, z.number ≠ n → (z ∈ b.records ↔ z ∈ a.records)
  own : ∀ z, z.number = n → (z ∈ b.records ↔ z = r ∧ kept)

theorem OnlyRecord.priority {a b : SetTable} {n : Nat} {r : SetRec} {kept : Prop} (h : OnlyRecord a b n r kept)
    (ta : TableOk a) (tb : TableOk b) (same : kept → a.priority n = r.priority) (number : r.number = n) {m : Nat}
    (held : ∃ y ∈ b.records, y.number = m) : b.priority m = a.priority m := by
  obtain ⟨y, mem, rfl⟩ := held
  rw [tb.priority mem]
  by_cases e : y.number = n
  · obtain ⟨rfl, k⟩ := (h.own y e).mp mem
    rw [e, same k]
  · rw [ta.priority ((h.others y e).mp mem)]

/-! ### TAKE COMPLETION (R17) -/

/-- The head of the Completion Order is reported, and freed unless the Reprint Queue holds it. -/
theorem takeCompletionRule_head {n : Nat} {rest : List Nat} {r : SetRec} (head : s.table.completion = n :: rest)
    (found : s.findSet n = some r) :
    takeCompletionRule [] s =
      (freeIfDone n (reportHead n s), { result := .done, data := recordBytes { r with reported := true } }) ∧
    (reportHead n s).findSet n = some { r with reported := true } ∧
    (reportHead n s).table =
      { s.table.updated n (fun r => { r with reported := true }) with completion := rest } := by
  have reported : (reportHead n s).findSet n = some { r with reported := true } :=
    findSet_updateSet_self (fun r => { r with reported := true }) (fun _ => rfl)
      (s := s.setTable { s.table with completion := s.table.completion.tail }) found
  refine ⟨?_, reported, ?_⟩
  · simp only [takeCompletionRule, withEmptyBody, head, reported]
  · unfold reportHead
    rw [head]
    rfl

/-- What TAKE COMPLETION leaves of the records. -/
theorem takeCompletionRule_records {n : Nat} {rest : List Nat} {r : SetRec} (table : TableOk s.table)
    (head : s.table.completion = n :: rest) (found : s.findSet n = some r) :
    OnlyRecord s.table (takeCompletionRule [] s).1.table n { r with reported := true } (n ∈ s.table.reprint) ∧
      TableOk (takeCompletionRule [] s).1.table ∧ (takeCompletionRule [] s).1.table.completion = rest ∧
      (takeCompletionRule [] s).1.table.reprint = s.table.reprint := by
  obtain ⟨rule, reported, after⟩ := takeCompletionRule_head head found
  obtain ⟨mem, rfl⟩ := State.findSet_mem found
  have whole : OnlyRecord s.table (reportHead r.number s).table r.number { r with reported := true } True := by
    rw [after]
    refine ⟨fun z other => ⟨fun memZ => ?_, fun old => SetTable.mem_updated_other _ old other⟩,
      fun z same => ⟨fun memZ => ?_, fun e => e.1 ▸ SetTable.mem_updated_self (fun r => { r with reported := true }) mem⟩⟩
    · exact (table.of_mem_updated mem memZ).elim (fun e => absurd (congrArg SetRec.number e) other) (·.1)
    · exact (table.of_mem_updated mem memZ).elim (⟨·, trivial⟩) fun e => absurd same e.2
  have ok : TableOk (reportHead r.number s).table := by
    rw [after]; exact (table.updated r.number (f := fun r => { r with reported := true }) fun _ => rfl).of_records rfl
  have queue : (reportHead r.number s).table.reprint = s.table.reprint := by rw [after]; rfl
  have order : (reportHead r.number s).table.completion = rest := by rw [after]
  rw [rule, freeIfDone_table reported, queue]
  by_cases kept : r.number ∈ s.table.reprint
  · rw [if_neg fun e => e.2 kept]
    exact ⟨⟨whole.others, fun z same => (whole.own z same).trans (by simp [kept])⟩, ok, order, queue⟩
  · rw [if_pos ⟨rfl, kept⟩]
    refine ⟨⟨fun z other => ?_, fun z same => ?_⟩, ok.filter _, order, queue⟩
    · simpa [other] using whole.others z other
    · simp [same, kept]

/-- Leaving the Completion Order from its head keeps the order of the sets that stay. -/
theorem reprintsBefore_completion_tail {a b : SetTable} {x y n : Nat} {rest : List Nat} (head : a.completion = n :: rest)
    (once : a.completion.Nodup) (tail : b.completion = rest) (px : b.priority x = a.priority x)
    (py : b.priority y = a.priority y) (h : a.reprintsBefore x y) : b.reprintsBefore x y := by
  unfold SetTable.reprintsBefore at h ⊢
  rw [px, py]
  refine h.imp id fun ⟨same, order⟩ => ⟨same, ?_⟩
  rw [head, List.nodup_cons] at once
  rw [head] at order
  rw [tail]
  by_cases first : x = n
  · exact .inl (first ▸ once.1)
  · refine order.imp (fun no listed => no (List.mem_cons_of_mem _ listed)) fun ⟨listed, less⟩ => ?_
    have later : y ≠ n := by
      rintro rfl
      simp at less
    rw [List.idxOf_cons_ne _ (Ne.symm first), List.idxOf_cons_ne _ (Ne.symm later)] at less
    exact ⟨(List.mem_cons.mp listed).resolve_left later, by omega⟩

theorem OutcomesMid.takeCompletion (h : OutcomesMid s.table []) : OutcomesMid (takeCompletionRule [] s).1.table [] := by
  cases head : s.table.completion with
  | nil => simpa only [takeCompletionRule, withEmptyBody, head] using h
  | cons n rest =>
    obtain ⟨r, mem, rfl, term, unreported⟩ := h.terminal n (by rw [head]; exact List.mem_cons_self)
    have found : s.findSet r.number = some r := h.table.find mem
    obtain ⟨only, table, completion, reprint⟩ := takeCompletionRule_records h.table head found
    have once := h.once
    rw [List.append_nil, head, List.nodup_cons] at once
    have own : r.number ∈ s.table.reprint → { r with reported := true } ∈ (takeCompletionRule [] s).1.table.records :=
      fun kept => (only.own { r with reported := true } rfl).mpr ⟨rfl, kept⟩
    have diverted : ∀ n ∈ s.table.reprint,
        ∃ y ∈ (takeCompletionRule [] s).1.table.records, y.number = n ∧ y.reprints = true := by
      intro n queued
      obtain ⟨y, memY, rfl, rep⟩ := (h.reprintDiverted n queued).2
      by_cases same : y.number = r.number
      · have e := h.table.unique memY mem same
        subst e
        exact ⟨{ y with reported := true }, own queued, rfl, rep⟩
      · exact ⟨y, (only.others y same).mpr memY, rfl, rep⟩
    have priority : ∀ n ∈ s.table.reprint,
        (takeCompletionRule [] s).1.table.priority n = s.table.priority n := fun n queued =>
      only.priority h.table table (fun _ => h.table.priority mem) rfl
        ((diverted n queued).imp fun y e => ⟨e.1, e.2.1⟩)
    constructor
    case table => exact table
    case once => rw [completion, List.append_nil]; exact once.2
    case terminal =>
      intro m listed
      rw [completion, List.append_nil] at listed
      obtain ⟨y, memY, rfl, termY, repY⟩ := h.terminal m (by
        rw [List.append_nil, head]; exact List.mem_cons_of_mem _ listed)
      exact ⟨y, (only.others y fun e => once.1 (e ▸ listed)).mpr memY, rfl, termY, repY⟩
    case whole =>
      intro y memY termY repY
      rw [completion, List.append_nil]
      by_cases same : y.number = r.number
      · rw [((only.own y same).mp memY).1] at repY
        cases repY
      · have listed := h.whole y ((only.others y same).mp memY) termY repY
        rw [head, List.append_nil] at listed
        exact (List.mem_cons.mp listed).resolve_left same
    case reportedHeld =>
      intro y memY repY
      rw [reprint]
      by_cases same : y.number = r.number
      · obtain ⟨e, kept⟩ := (only.own y same).mp memY
        rw [e]
        exact ⟨term, kept⟩
      · exact h.reportedHeld y ((only.others y same).mp memY) repY
    case reprintOnce => rw [reprint]; exact h.reprintOnce
    case reprintDiverted => rw [reprint]; exact fun n queued => ⟨List.not_mem_nil, diverted n queued⟩
    case reprintOrdered =>
      rw [reprint]
      exact h.reprintOrdered.imp_of_mem fun memX memY => reprintsBefore_completion_tail head
        (by simpa using h.once) completion (priority _ memX) (priority _ memY)

/-! ### TAKE REPRINT (R18) -/

/-- The first entry leaves the Reprint Queue, and is freed when it is reported. -/
theorem takeReprintRule_head {n : Nat} {rest : List Nat} {r : SetRec} (head : s.table.reprint = n :: rest)
    (found : s.findSet n = some r) :
    takeReprintRule [] s =
      (freeIfDone n (s.setTable { s.table with reprint := rest }), { result := .done, data := reprintBytes r }) := by
  have still : (s.setTable { s.table with reprint := rest }).findSet n = some r := found
  simp only [takeReprintRule, withEmptyBody, head, still]

/-- What TAKE REPRINT leaves of the records. -/
theorem takeReprintRule_records {n : Nat} {rest : List Nat} {r : SetRec} (table : TableOk s.table)
    (head : s.table.reprint = n :: rest) (last : n ∉ rest) (found : s.findSet n = some r) :
    OnlyRecord s.table (takeReprintRule [] s).1.table n r (r.reported = false) ∧
      TableOk (takeReprintRule [] s).1.table ∧ (takeReprintRule [] s).1.table.reprint = rest ∧
      (takeReprintRule [] s).1.table.completion = s.table.completion := by
  have still : (s.setTable { s.table with reprint := rest }).findSet n = some r := found
  obtain ⟨mem, rfl⟩ := State.findSet_mem found
  rw [takeReprintRule_head head found, freeIfDone_table still]
  cases reported : r.reported with
  | true =>
    rw [if_pos ⟨rfl, last⟩]
    refine ⟨⟨fun z other => ?_, fun z same => ?_⟩, (table.filter _).of_records rfl, rfl, rfl⟩
    · simp [other]
    · simp [same]
  | false =>
    rw [if_neg (by simp)]
    refine ⟨⟨fun z _ => Iff.rfl, fun z same => ⟨fun memZ => ⟨table.unique memZ mem same, rfl⟩, fun e => e.1 ▸ mem⟩⟩,
      table.of_records rfl, rfl, rfl⟩

theorem OutcomesMid.takeReprint (h : OutcomesMid s.table []) : OutcomesMid (takeReprintRule [] s).1.table [] := by
  cases head : s.table.reprint with
  | nil => simpa only [takeReprintRule, withEmptyBody, head] using h
  | cons n rest =>
    obtain ⟨_, r, mem, rfl, rep⟩ := h.reprintDiverted n (by rw [head]; exact List.mem_cons_self)
    have found : s.findSet r.number = some r := h.table.find mem
    have queue := h.reprintOnce
    rw [head, List.nodup_cons] at queue
    obtain ⟨only, table, reprint, completion⟩ := takeReprintRule_records h.table head queue.1 found
    have unreported : ∀ y ∈ s.table.records, y.reported = false → y ∈ (takeReprintRule [] s).1.table.records := by
      intro y memY repY
      by_cases same : y.number = r.number
      · have e := h.table.unique memY mem same
        exact (only.own y same).mpr ⟨e, e ▸ repY⟩
      · exact (only.others y same).mpr memY
    have old : ∀ y ∈ (takeReprintRule [] s).1.table.records, y ∈ s.table.records := by
      intro y memY
      by_cases same : y.number = r.number
      · rw [((only.own y same).mp memY).1]; exact mem
      · exact (only.others y same).mp memY
    have diverted : ∀ n ∈ rest, ∃ y ∈ (takeReprintRule [] s).1.table.records, y.number = n ∧ y.reprints = true := by
      intro n queued
      obtain ⟨y, memY, rfl, repY⟩ := (h.reprintDiverted n (by rw [head]; exact List.mem_cons_of_mem _ queued)).2
      exact ⟨y, (only.others y fun e => queue.1 (e ▸ queued)).mpr memY, rfl, repY⟩
    have priority : ∀ n ∈ rest, (takeReprintRule [] s).1.table.priority n = s.table.priority n := fun n queued =>
      only.priority h.table table (fun _ => h.table.priority mem) rfl ((diverted n queued).imp fun y e => ⟨e.1, e.2.1⟩)
    constructor
    case table => exact table
    case once => rw [completion]; exact h.once
    case terminal =>
      intro m listed
      rw [completion] at listed
      obtain ⟨y, memY, number, termY, repY⟩ := h.terminal m listed
      exact ⟨y, unreported y memY repY, number, termY, repY⟩
    case whole =>
      intro y memY termY repY
      rw [completion]
      exact h.whole y (old y memY) termY repY
    case reportedHeld =>
      intro y memY repY
      obtain ⟨termY, queued⟩ := h.reportedHeld y (old y memY) repY
      refine ⟨termY, ?_⟩
      rw [reprint]
      rw [head] at queued
      refine (List.mem_cons.mp queued).resolve_left fun same => ?_
      obtain ⟨e, kept⟩ := (only.own y same).mp memY
      rw [e, kept] at repY
      cases repY
    case reprintOnce => rw [reprint]; exact queue.2
    case reprintDiverted => rw [reprint]; exact fun n queued => ⟨List.not_mem_nil, diverted n queued⟩
    case reprintOrdered =>
      rw [reprint]
      have ordered := h.reprintOrdered
      rw [head, List.pairwise_cons] at ordered
      exact ordered.2.imp_of_mem fun memX memY => reprintsBefore_congr completion (priority _ memX) (priority _ memY)

end Sys2Proof.Machine
end

section
/-! PROOFS. Every operation is a sequence of acts on the pending conditions, the records and the outcome queues; what every
act keeps is so kept by every event, and every step is a sequence of events. -/

namespace Sys2Proof.Machine

variable {e : Bool} {s t u v : State}

/-- One update that may reach the pending conditions, the records, the outcome queues or the sets ended at the event under
way. e says whether sets may come to their end. -/
inductive Act (e : Bool) : State → State → Prop
  | other (s t : State) (links : t.links = s.links) (table : t.table = s.table) (ended : t.ev.ended = s.ev.ended) : Act e s t
  | ports (s : State) (x : Links) (h : ∀ p, (x.get p).conds = (s.links.get p).conds ∨ (x.get p).conds = []) :
      Act e s (s.setLinks x)
  | raise (s : State) (k : Cond) (x : CondParam) : Act e s (raiseCond k x s)
  | remove (s : State) (k : Cond) : Act e s (removeCond k s)
  | records (s : State) (f : SetRec → SetRec) (h : TableOk s.table → ∀ r ∈ s.table.records, RecordKept r (f r)) :
      Act e s (s.setTable { s.table with records := s.table.records.map f })
  | profile (s : State) (x : Profile) (b : Bool) : Act e s (s.setTable { s.table with profile := x, profileLoaded := b })
  | load (s : State) (r : SetRec) (room : s.table.records.length < 64) (number : ∀ x ∈ s.table.records, x.number ≠ r.number)
      (tag : ∀ x ∈ s.table.records, x.tag ≠ r.tag) (alive : r.state.terminal = false) (unreported : r.reported = false) :
      Act e s (s.setTable { s.table with records := s.table.records ++ [r] })
  | finish (s : State) (n : Nat) (x : SetState) (h : e = true) (term : x.terminal = true) : Act e s (makeTerminal n x s)
  | flush (s : State) : Act e s (flushEnded s)
  | completion (s : State) (h : s.ev.ended = []) : Act e s (takeCompletionRule [] s).1
  | reprint (s : State) (h : s.ev.ended = []) : Act e s (takeReprintRule [] s).1
  | cold (s : State) (x : Guard) : Act e s (coldStart x s)

/-! ### What every act keeps -/

theorem raiseCond_table (k : Cond) (x : CondParam) (s : State) : (raiseCond k x s).table = s.table :=
  raiseCond_same k x s .table (by decide)

theorem raiseCond_ended (k : Cond) (x : CondParam) (s : State) : (raiseCond k x s).ev.ended = s.ev.ended :=
  (raiseCond_keepsOutcomes k x s).ended

theorem joinQueues_acts_ended (s : State) (n : Nat) : (joinQueues s n).ev.ended = s.ev.ended := by
  have join : ∀ u, (joinCompletion n u).ev.ended = u.ev.ended := by
    intro u; unfold joinCompletion; dsimp only; split
    · exact raiseCond_ended _ _ _
    · rfl
  have again : ∀ u, (joinReprintIf n u).ev.ended = u.ev.ended := by
    intro u; unfold joinReprintIf; split
    · split
      · unfold joinReprint; dsimp only; split
        · exact raiseCond_ended _ _ _
        · rfl
      · rfl
    · rfl
  exact (again _).trans (join s)

/-- Once the sets that an event ended have joined the queues none is left. -/
theorem flushEnded_ended (s : State) : (flushEnded s).ev.ended = [] := by
  have all : ∀ (xs : List Nat) (u : State), (xs.foldl joinQueues u).ev.ended = u.ev.ended := by
    intro xs
    induction xs with
    | nil => exact fun _ => rfl
    | cons x xs ih => exact fun u => (ih _).trans (joinQueues_acts_ended u x)
  exact all _ _

theorem freeIfDone_keeps (n : Nat) (s : State) :
    (freeIfDone n s).links = s.links ∧ (freeIfDone n s).ev.ended = s.ev.ended := by
  unfold freeIfDone
  split
  · exact ⟨rfl, rfl⟩
  · split <;> exact ⟨rfl, rfl⟩

theorem takeCompletionRule_keeps (s : State) :
    (takeCompletionRule [] s).1.links = s.links ∧ (takeCompletionRule [] s).1.ev.ended = s.ev.ended := by
  simp only [takeCompletionRule, withEmptyBody]
  split
  · exact ⟨rfl, rfl⟩
  · split
    · exact ⟨rfl, rfl⟩
    · exact freeIfDone_keeps _ _

theorem takeReprintRule_keeps (s : State) :
    (takeReprintRule [] s).1.links = s.links ∧ (takeReprintRule [] s).1.ev.ended = s.ev.ended := by
  simp only [takeReprintRule, withEmptyBody]
  split
  · exact ⟨rfl, rfl⟩
  · split
    · exact ⟨rfl, rfl⟩
    · exact freeIfDone_keeps _ _

theorem PortsOk.of_links (h : PortsOk s) (links : t.links = s.links) : PortsOk t := by
  intro p
  unfold State.port
  rw [links]
  exact h p

theorem PortsOk.setTable (h : PortsOk s) (x : SetTable) : PortsOk (s.setTable x) := h

theorem joinQueues_portsOk (h : PortsOk s) (n : Nat) : PortsOk (joinQueues s n) := by
  have join : ∀ u, PortsOk u → PortsOk (joinCompletion n u) := by
    intro u ok; unfold joinCompletion; dsimp only; split
    · exact (ok.setTable _).raiseCond _ _
    · exact ok.of_links rfl
  have again : ∀ u, PortsOk u → PortsOk (joinReprintIf n u) := by
    intro u ok; unfold joinReprintIf; split
    · split
      · unfold joinReprint; dsimp only; split
        · exact (ok.setTable _).raiseCond _ _
        · exact ok.of_links rfl
      · exact ok
    · exact ok
  exact again _ (join s h)

theorem PortsOk.foldl_joinQueues (xs : List Nat) : ∀ {s : State}, PortsOk s → PortsOk (xs.foldl joinQueues s) := by
  induction xs with
  | nil => exact id
  | cons n xs ih => exact fun h => ih (joinQueues_portsOk h n)

theorem Act.portsOk (a : Act e s t) (h : PortsOk s) : PortsOk t := by
  cases a with
  | other _ links => exact h.of_links links
  | ports x same =>
    intro p
    rcases same p with conds | conds
    · exact conds ▸ h p
    · exact (show (x.get p).conds = [] from conds) ▸ CondsOk.nil p
  | raise k x => exact h.raiseCond k x
  | remove k => exact h.removeCond k
  | finish n x => exact h.of_links (makeTerminal_same n x s .links (by decide))
  | flush => exact PortsOk.foldl_joinQueues _ (h.of_links rfl)
  | completion => exact h.of_links (takeCompletionRule_keeps s).1
  | reprint => exact h.of_links (takeReprintRule_keeps s).1
  | cold => exact fun p => by cases p <;> exact .nil _
  | _ => exact h

/-- The outcome queues are sound, the sets ended at the event under way aside. -/
def QueuesOk (s : State) : Prop := OutcomesMid s.table s.ev.ended

theorem QueuesOk.congr (h : QueuesOk s) (table : t.table = s.table) (ended : t.ev.ended = s.ev.ended) : QueuesOk t := by
  unfold QueuesOk
  rw [table, ended]
  exact h

theorem makeTerminal_queuesOk (h : QueuesOk s) (n : Nat) {x : SetState} (term : x.terminal = true) :
    QueuesOk (makeTerminal n x s) := by
  cases found : s.findSet n with
  | none =>
    have ended : s.unended n = false := by simp [State.unended, State.setState, found]
    unfold makeTerminal
    rw [ended]
    exact h
  | some r =>
    cases alive : r.state.terminal with
    | true =>
      have ended : s.unended n = false := by simp [State.unended, State.setState, found, alive]
      unfold makeTerminal
      rw [ended]
      exact h
    | false =>
      rw [makeTerminal_open x found alive]
      obtain ⟨mem, rfl⟩ := State.findSet_mem found
      exact OutcomesMid.finish h mem alive term

theorem OutcomesMid.coldStart (x : Guard) (s : State) : OutcomesMid (coldStart x s).table [] where
  table := ⟨Nat.zero_le _, List.nodup_nil, List.nodup_nil⟩
  once := List.nodup_nil
  terminal _ listed := absurd listed List.not_mem_nil
  whole _ mem := absurd mem List.not_mem_nil
  reportedHeld _ mem := absurd mem List.not_mem_nil
  reprintOnce := List.nodup_nil
  reprintDiverted _ queued := absurd queued List.not_mem_nil
  reprintOrdered := .nil

theorem Act.queuesOk (a : Act e s t) (h : QueuesOk s) : QueuesOk t := by
  cases a with
  | other _ _ table ended => exact h.congr table ended
  | ports => exact h
  | raise k x => exact h.congr (raiseCond_table k x s) (raiseCond_ended k x s)
  | remove => exact h
  | records f kept => exact OutcomesMid.map h f (kept h.table)
  | profile x b =>
    exact ⟨h.table.of_records rfl, h.once, h.terminal, h.whole, h.reportedHeld, h.reprintOnce, h.reprintDiverted,
      h.reprintOrdered⟩
  | load r room number tag alive unreported => exact OutcomesMid.append h r room number tag alive unreported
  | finish n x _ term => exact makeTerminal_queuesOk h n term
  | flush =>
    unfold QueuesOk
    rw [flushEnded_ended]
    exact OutcomesMid.flushEnded h
  | completion none =>
    unfold QueuesOk at h ⊢
    rw [(takeCompletionRule_keeps s).2, none]
    exact OutcomesMid.takeCompletion (none ▸ h)
  | reprint none =>
    unfold QueuesOk at h ⊢
    rw [(takeReprintRule_keeps s).2, none]
    exact OutcomesMid.takeReprint (none ▸ h)
  | cold x => exact OutcomesMid.coldStart x s

/-- No act but the end of a set adds to the sets that the event ended. -/
theorem Act.ended_nil (a : Act false s t) (h : s.ev.ended = []) : t.ev.ended = [] := by
  cases a with
  | other _ _ _ ended => exact ended.trans h
  | raise k x => exact (raiseCond_ended k x s).trans h
  | finish _ _ no => cases no
  | flush => exact flushEnded_ended s
  | completion => exact (takeCompletionRule_keeps s).2.trans h
  | reprint => exact (takeReprintRule_keeps s).2.trans h
  | cold => rfl
  | _ => exact h

/-- A sequence of acts. -/
abbrev Acts (e : Bool) : State → State → Prop := Relation.ReflTransGen (Act e)

theorem Acts.portsOk (h : Acts e s t) (ok : PortsOk s) : PortsOk t := by
  induction h with
  | refl => exact ok
  | tail _ a ih => exact a.portsOk ih

theorem Acts.queuesOk (h : Acts e s t) (ok : QueuesOk s) : QueuesOk t := by
  induction h with
  | refl => exact ok
  | tail _ a ih => exact a.queuesOk ih

theorem Acts.ended_nil (h : Acts false s t) (none : s.ev.ended = []) : t.ev.ended = [] := by
  induction h with
  | refl => exact none
  | tail _ a ih => exact a.ended_nil ih

/-! ### The updates and the flags -/

namespace Acts

theorem here (s : State) : Acts e s s := .refl

theorem other (h : Acts e s t) (links : u.links = t.links) (table : u.table = t.table)
    (ended : u.ev.ended = t.ev.ended) : Acts e s u := h.tail (.other t u links table ended)

theorem setLine (h : Acts e s t) (x : Supervisor) : Acts e s (t.setLine x) := h.other rfl rfl rfl

theorem setAcc (h : Acts e s t) (x : Accumulator) : Acts e s (t.setAcc x) := h.other rfl rfl rfl

theorem setReader (h : Acts e s t) (x : MarkReader) : Acts e s (t.setReader x) := h.other rfl rfl rfl

/-- An operation that its footprint keeps from all this. -/
theorem same {l : List Part} (h : Acts e s t) (k : SameExcept l t u)
    (no : Part.links ∉ l ∧ Part.table ∉ l ∧ Part.ev ∉ l) : Acts e s u :=
  h.other (k .links no.1) (k .table no.2.1) (congrArg Event.ended (k .ev no.2.2))

theorem setLinks (h : Acts e s t) (x : Links) (k : ∀ p, (x.get p).conds = (t.links.get p).conds ∨ (x.get p).conds = []) :
    Acts e s (t.setLinks x) := h.tail (.ports t x k)

theorem setPort (h : Acts e s t) (p : Port) (x : PortState) (k : x.conds = (t.port p).conds ∨ x.conds = []) :
    Acts e s (t.setPort p x) := by
  refine h.setLinks _ fun q => ?_
  by_cases same : q = p
  · subst same; rw [Links.get_put_self]; exact k
  · rw [Links.get_put_of_ne same]; exact .inl rfl

theorem raiseCond (h : Acts e s t) (k : Cond) (x : CondParam) : Acts e s (raiseCond k x t) := h.tail (.raise t k x)

theorem removeCond (h : Acts e s t) (k : Cond) : Acts e s (removeCond k t) := h.tail (.remove t k)

theorem produce (h : Acts e s t) (p : Port) (f : TxFrame) : Acts e s (produce p f t) := by
  unfold Machine.produce
  split
  · exact h
  · exact h.setPort p _ (.inl rfl)

theorem sendNotices (h : Acts e s t) (p : Port) (w : Cond → Bool) : Acts e s (sendNotices p w t) := by
  unfold Machine.sendNotices
  split
  · exact h
  · exact h.setPort p _ (.inl rfl)

theorem flushNotices (h : Acts e s t) : Acts e s (flushNotices t) := by
  have sent := ((h.sendNotices .job fun c => decide (c ∈ t.ev.raised)).sendNotices .line
    fun c => decide (c ∈ t.ev.raised)).sendNotices .delivery fun c => decide (c ∈ t.ev.raised)
  refine sent.other rfl rfl ?_
  have ev : ∀ p w u, (Machine.sendNotices p w u).ev = u.ev := fun p w u => sendNotices_same p w u .ev (by decide)
  show t.ev.ended = _
  rw [ev, ev, ev]

theorem setHold (h : Acts e s t) (k : HoldCause) (b : Bool) : Acts e s (setHold k b t) := by
  have put : Acts e s (t.setLine { t.line with holds := t.line.holds.put k b }) := h.other rfl rfl rfl
  unfold Machine.setHold
  split
  · exact h
  · dsimp only
    split
    · exact put.raiseCond _ _
    · exact put
    · exact put

theorem lineFault (h : Acts e s t) (k : LineCause) (n : Option Nat) : Acts e s (lineFault k n t) := by
  unfold Machine.lineFault
  split
  · exact h.other rfl rfl rfl
  · exact (h.setLine _).raiseCond _ _
  · exact (h.setLine _).raiseCond _ _

theorem evalTrackFull (h : Acts e s t) : Acts e s (evalTrackFull t) := by
  unfold Machine.evalTrackFull
  split
  · exact h.setHold _ _
  · split
    · exact h.setHold _ _
    · exact h

theorem evalAccBlocked (h : Acts e s t) : Acts e s (evalAccBlocked t) := h.setHold _ _

theorem setObligation (h : Acts e s t) (o : Obligation) : Acts e s (setObligation o t) := Acts.setHold (h.setAcc _) _ _

theorem foldl {α : Type} {f : State → α → State} (step : ∀ u x, Acts e s u → Acts e s (f u x)) (xs : List α) :
    ∀ {t : State}, Acts e s t → Acts e s (xs.foldl f t) := by
  induction xs with
  | nil => exact id
  | cons x xs ih => exact fun h => ih (step _ x h)

/-! ### Records -/

/-- Every record of a number changed in a way that bears on no outcome. -/
theorem updateSet (h : Acts e s t) (n : Nat) (f : SetRec → SetRec) (k : ∀ r, RecordKept r (f r)) :
    Acts e s (updateSet n f t) := by
  refine h.tail (.records t _ fun _ r _ => ?_)
  split
  · exact k r
  · exact .refl r

/-- The one record of a number changed in a way that bears on no outcome. -/
theorem updateFound {r : SetRec} (h : Acts e s t) (f : SetRec → SetRec) (mem : r ∈ t.table.records)
    (k : RecordKept r (f r)) : Acts e s (Machine.updateSet r.number f t) := by
  refine h.tail (.records t _ fun table x memX => ?_)
  split
  · rename_i same
    rw [table.unique memX mem same]
    exact k
  · exact .refl x

theorem putSetState (h : Acts e s t) (n : Nat) {x : SetState} (alive : x.terminal = false) :
    Acts e s (putSetState n x t) := by
  refine h.updateSet n _ fun r => ?_
  cases term : r.state.terminal with
  | true => rw [SetRec.put_terminal x term]; exact .refl r
  | false => rw [SetRec.put_open x term]; exact .alive rfl term alive rfl

theorem updateSetOpt (h : Acts e s t) (n : Option Nat) (f : SetRec → SetRec) (k : ∀ r, RecordKept r (f r)) :
    Acts e s (updateSetOpt n f t) := by
  cases n with
  | none => exact h
  | some n => exact h.updateSet n f k

theorem testDiverted (h : Acts true s t) (n : Nat) : Acts true s (testDiverted n t) := by
  unfold Machine.testDiverted
  split
  · exact h.tail (.finish t n .diverted rfl rfl)
  · exact h

theorem testDivertedOpt (h : Acts true s t) (n : Option Nat) : Acts true s (testDivertedOpt n t) := by
  cases n with
  | none => exact h
  | some n => exact h.testDiverted n

theorem turnToWaste (h : Acts e s t) (n : Nat) : Acts e s (turnToWaste n t) := by
  unfold Machine.turnToWaste
  split
  · exact h.other rfl rfl rfl
  · exact h.other rfl rfl rfl

end Acts

theorem SetRec.fail_kept (c : SetCause) (i : Option Nat) (r : SetRec) : RecordKept r (r.fail c i) := by
  unfold SetRec.fail
  split
  · rename_i o
    have fails : r.state.mayFail = true := (Bool.and_eq_true_iff.mp o).1
    have alive : r.state.terminal = false := by
      revert fails
      cases r.state <;> decide
    exact .alive rfl alive rfl rfl
  · exact .refl r

namespace Acts

theorem recordCause (h : Acts true s t) (n : Nat) (c : SetCause) (i : Option Nat) : Acts true s (recordCause n c i t) := by
  unfold Machine.recordCause
  split
  · exact h
  · split
    · have failed := (h.updateSet n (SetRec.fail c i) (SetRec.fail_kept c i)).same (stopHoldOf_same n _) (by decide)
      have followed : Acts true s (followRef n (stopHoldOf n (Machine.updateSet n (SetRec.fail c i) t))) := failed.other rfl rfl rfl
      have asked : Acts true s (Machine.turnToWaste n
          (followRef n (stopHoldOf n (Machine.updateSet n (SetRec.fail c i) t)))).askDump := (followed.turnToWaste n).other rfl rfl rfl
      exact asked.testDiverted n
    · exact h

theorem recordCauseOpt (h : Acts true s t) (n : Option Nat) (c : SetCause) : Acts true s (recordCauseOpt n c t) := by
  cases n with
  | none => exact h
  | some n => exact h.recordCause n c none

theorem flushEnded (h : Acts e s t) : Acts e s (flushEnded t) := h.tail (.flush t)

/-! ### The gate plan -/

theorem rewriteSheet (h : Acts true s t) (id : Nat) (d : Disposition) : Acts true s (rewriteSheet id d t) := by
  have send : ∀ x, Acts true s (sendSheet id x t) := fun _ => h.other rfl rfl rfl
  unfold Machine.rewriteSheet
  split
  · exact h
  · split
    · exact h
    · cases d with
      | waste => exact (send .waste).recordCauseOpt _ _
      | accumulate => exact send .accumulate

theorem withhold (h : Acts true s t) (a : Actuator) (d : Disposition) : Acts true s (withhold a d t) := by
  cases a with
  | knife row => exact h.lineFault _ _
  | gate sheet _ => exact h.rewriteSheet _ _

theorem takeDue (h : Acts true s t) (f : Firing) (lateness : Int) (d : Disposition) :
    Acts true s (takeDue f lateness d t).1 := by
  unfold Machine.takeDue
  split
  · exact h.withhold _ _
  · have counted : Acts true s (countLate lateness t) := by
      unfold countLate
      split
      · exact h.other rfl rfl rfl
      · exact h
    unfold fire
    split
    · exact counted.other rfl rfl rfl
    · exact counted.other rfl rfl rfl

theorem takeMade (h : Acts true s t) (f : Firing) (lateness : Int) (d : Disposition) :
    Acts true s (takeMade f lateness d t).1 := by
  have due := h.takeDue f lateness (withheldTo t d)
  unfold Machine.takeMade
  dsimp only
  split
  · unfold askGuarded
    split
    · exact due.other rfl rfl rfl
    · exact due
  · exact due

theorem makeFiring (h : Acts true s t) (a : Actuator) (target : Pos) (d : Disposition) :
    Acts true s (makeFiring a target d t).1 := by
  unfold Machine.makeFiring
  split
  · split
    · exact h.lineFault _ _
    · exact (h.lineFault _ _).rewriteSheet _ _
  · dsimp only
    split
    · exact h.other rfl rfl rfl
    · exact h.takeMade _ _ _

theorem requestKnife (h : Acts true s t) (row : Pos) : Acts true s (requestKnife row t) := by
  unfold Machine.requestKnife
  dsimp only
  split
  · exact h
  · exact h.makeFiring _ _ _

theorem walkFiring (h : Acts true s t) (x : SheetEntry) (want running : Disposition) :
    Acts true s (walkFiring x want running t).1 := by
  unfold Machine.walkFiring
  dsimp only
  split
  · split
    · exact h
    · split
      · exact h
      · exact Acts.other ((h.rewriteSheet _ _).rewriteSheet _ _) rfl rfl rfl
  · exact h.makeFiring _ _ _

theorem walkWasted (h : Acts true s t) (p x : SheetEntry) (running : Disposition) :
    Acts true s (walkWasted p x running t).1 := by
  cases running with
  | waste => exact h
  | accumulate =>
    have made := h.walkFiring x .waste .accumulate
    unfold Machine.walkWasted
    dsimp only
    split
    · unfold followSheet
      split
      · exact made
      · exact made.rewriteSheet _ _
    · exact made

theorem walkPair (h : Acts true s t) (p x : SheetEntry) (running : Disposition) :
    Acts true s (walkPair p x running t).1 := by
  unfold Machine.walkPair
  dsimp only
  split
  · split
    · exact Acts.other (h.rewriteSheet _ _) rfl rfl rfl
    · exact (h.rewriteSheet _ _).walkWasted _ _ _
  · exact (h.rewriteSheet _ _).walkWasted _ _ _

theorem walkEntry (h : Acts true s t) (prev : Option Nat) (id : Nat) (running : Disposition) :
    Acts true s (walkEntry prev id running t).1 := by
  unfold Machine.walkEntry
  split
  · exact h
  · rename_i x _
    have alone : Acts true s (if x.disposition = running then (t, running)
        else ((Machine.walkFiring x x.disposition running t).1, (Machine.walkFiring x x.disposition running t).2.1)).1 := by
      split
      · exact h
      · exact h.walkFiring x _ _
    dsimp only
    split
    · exact alone
    · split
      · exact h.walkPair _ x _
      · exact alone

theorem walk (ids : List Nat) : ∀ {t : State} (_ : Acts true s t) (prev : Option Nat) (running : Disposition),
    Acts true s (walk prev ids running t) := by
  induction ids with
  | nil => exact fun h _ _ => h.other rfl rfl rfl
  | cons id ids ih => exact fun h prev running => ih (h.walkEntry prev id running) _ _

theorem rederive (h : Acts true s t) : Acts true s (rederive t) := by
  have dropped : Acts true s (dropGates t.noneMade) := h.other rfl rfl rfl
  exact dropped.walk _ _ _

theorem extendPlan (h : Acts true s t) : Acts true s (extendPlan t) := by
  have none : Acts true s t.noneMade := h.other rfl rfl rfl
  exact none.walk _ _ _

theorem replanLoop (fuel : Nat) : ∀ {t : State}, Acts true s t → Acts true s (replanLoop fuel t) := by
  induction fuel with
  | zero => exact id
  | succ fuel ih =>
    intro t h
    have asked : Acts true s t.planAsked := h.other rfl rfl rfl
    unfold Machine.replanLoop
    split
    · exact ih asked.rederive
    · exact h

theorem replan (h : Acts true s t) : Acts true s (replan t) := h.replanLoop _

/-! ### The accumulator -/

theorem beginHold (h : Acts e s t) (n i : Nat) : Acts e s (beginHold n i t) := by
  have held : Acts e s ((Machine.putSetState n .held t).setAcc
      { (Machine.putSetState n .held t).acc with holdTimer := msTimer (i * 1000) }) :=
    (h.putSetState n (x := .held) rfl).other rfl rfl rfl
  exact held.raiseCond _ _

theorem takeSteps (fuel : Nat) : ∀ {t : State}, Acts e s t → Acts e s (takeSteps fuel t) := by
  have pass : ∀ k r, RecordKept r (SetRec.pass k r) := fun _ _ => ⟨rfl, rfl, rfl, fun _ => ⟨rfl, rfl⟩⟩
  induction fuel with
  | zero => exact id
  | succ fuel ih =>
    intro t h
    unfold Machine.takeSteps
    split
    · exact h
    · split
      · split
        · split
          · exact ih (h.updateSet _ _ (pass .hold))
          · exact h.beginHold _ _
        · split
          · exact ih (h.updateSet _ _ (pass .await))
          · exact h.putSetState _ rfl
        · exact h
      · exact h

theorem runSteps (h : Acts e s t) : Acts e s (runSteps t) := h.takeSteps 4

theorem startHandOver (h : Acts e s t) (r : SetRec) : Acts e s (startHandOver r t) := by
  have named : Acts e s (nameHanded r (startRelease (Machine.putSetState r.number .folding t))) :=
    (h.putSetState r.number (x := .folding) rfl).other rfl rfl rfl
  exact named.evalAccBlocked

theorem examHandOver (h : Acts e s t) : Acts e s (examHandOver t) := by
  unfold Machine.examHandOver
  split
  · split
    · exact h.startHandOver _
    · exact h
  · exact h

theorem examDump (h : Acts e s t) : Acts e s (examDump t) := by
  unfold Machine.examDump
  split
  · exact Acts.evalAccBlocked (h.other rfl rfl rfl)
  · exact h

theorem examSquaring (h : Acts e s t) : Acts e s (examSquaring t) := h.same (examSquaring_same t) (by decide)

theorem examObligation (h : Acts e s t) : Acts e s (examObligation t) := h.same (examObligation_same t) (by decide)

theorem examStack (h : Acts e s t) : Acts e s (examStack t) := h.examDump.examHandOver.examSquaring

theorem goOn (h : Acts e s t) : Acts e s (goOn t) := h.runSteps.examHandOver.examSquaring

end Acts

theorem State.heldRec_mem {r : SetRec} (h : s.heldRec = some r) : r ∈ s.table.records :=
  (State.findSet_mem (heldRec_found h).1).1

/-- A waiting step of a set in no terminal state is finished. -/
theorem SetRec.finish_kept (k : StepKind) {r : SetRec} (alive : r.state.terminal = false) : RecordKept r (r.finish k) :=
  .alive rfl alive rfl rfl

namespace Acts

theorem endAwait (h : Acts e s t) : Acts e s (endAwait t) := by
  unfold Machine.endAwait
  split
  · rename_i r held
    split
    · rename_i waits
      have alive : r.state.terminal = false := by rw [waits.1]; rfl
      exact (h.updateFound (SetRec.finish .await) (State.heldRec_mem held) (SetRec.finish_kept .await alive)).goOn
    · exact h
  · exact h

theorem examAsked (h : Acts e s t) : Acts e s (examAsked t) := by
  have ask : ∀ {v}, Acts e s v → Acts e s (examDumpIf v) := by
    intro v k
    unfold examDumpIf
    split
    · exact k.examDump
    · exact k
  unfold Machine.examAsked
  split
  · exact ask h.endAwait
  · exact ask h

theorem settle (h : Acts true s t) : Acts true s (settle t) := h.replan.examAsked.flushEnded

end Acts

end Sys2Proof.Machine
end

section
/-! PROOFS. The rules of requests and machine events are sequences of acts, and so every step keeps the pending conditions
and the outcome queues. -/

namespace Sys2Proof.Machine

variable {e : Bool} {s t u v : State}

namespace Acts

/-! ### Matching and rows -/

theorem makeOrphan (h : Acts e s t) (tag : Option Nat) (reason : OrphanReason) : Acts e s (makeOrphan tag reason t) := by
  unfold Machine.makeOrphan
  split
  · exact h
  · exact Acts.other (h.raiseCond _ _) rfl rfl rfl

theorem acceptPage (h : Acts e s t) (id n : Nat) (m : Mark) : Acts e s (acceptPage id n m t) := by
  have counted : Acts e s (assignSheet id n (some m.page) .accumulate
      (Machine.updateSet n (fun r => { r with pagesRead := r.pagesRead + 1 }) t)) :=
    (h.updateSet n (fun r => { r with pagesRead := r.pagesRead + 1 })
      fun _ => ⟨rfl, rfl, rfl, fun _ => ⟨rfl, rfl⟩⟩).other rfl rfl rfl
  have whole := counted.updateSet n (fun r => { r with readComplete := true })
    fun _ => ⟨rfl, rfl, rfl, fun _ => ⟨rfl, rfl⟩⟩
  unfold Machine.acceptPage
  dsimp only
  split
  · exact whole.other rfl rfl rfl
  · exact counted

theorem matchReading (h : Acts true s t) (id n : Nat) (m : Mark) : Acts true s (matchReading id n m t) := by
  have assigned : Acts true s (assignSheet id n none .waste t) := h.other rfl rfl rfl
  unfold Machine.matchReading
  split
  · exact h
  · split
    · exact assigned.recordCause _ _ _
    · split
      · exact Acts.other (assigned.recordCause n .shortSet none) rfl rfl rfl
      · split
        · exact assigned.recordCause _ _ _
        · exact h.acceptPage _ _ _

theorem startSet {r : SetRec} (h : Acts e s t) (mem : r ∈ t.table.records) (waits : r.state = .pending) :
    Acts e s (startSet r t) :=
  (h.updateFound (fun r => { r with state := .active, pagesRead := 0 }) mem
    (.alive rfl (by rw [waits]; rfl) rfl rfl)).other rfl rfl rfl

theorem matchFirst (h : Acts true s t) (id : Nat) (m : Mark) : Acts true s (matchFirst id m t) := by
  unfold Machine.matchFirst
  split
  · exact h.makeOrphan _ _
  · rename_i r found
    split
    · exact h.makeOrphan _ _
    · split
      · exact h.makeOrphan _ _
      · rename_i waits
        exact (h.startSet (List.mem_of_find?_eq_some found) waits).matchReading _ _ _
      · exact h.makeOrphan _ _

theorem matchStart (h : Acts true s t) (id : Nat) (m : Mark) : Acts true s (matchStart id m t) := by
  have cleared : Acts true s (t.setOrphanRun false) := h.other rfl rfl rfl
  unfold Machine.matchStart
  split
  · exact h.makeOrphan _ _
  · exact cleared.matchFirst _ _

theorem assignToRun (h : Acts e s t) (id n : Nat) : Acts e s (assignToRun id n t) := by
  unfold Machine.assignToRun
  split
  · exact h.other rfl rfl rfl
  · exact h

theorem matchRun (h : Acts e s t) (id n : Nat) (m : Mark) : Acts e s (matchRun id n m t) := by
  unfold Machine.matchRun
  dsimp only
  split
  · exact Acts.other (h.assignToRun id n) rfl rfl rfl
  · exact h.assignToRun id n

theorem setRef (h : Acts e s t) (r : ReadingRef) : Acts e s (t.setRef r) := h.other rfl rfl rfl

theorem setOrphanRun (h : Acts e s t) (b : Bool) : Acts e s (t.setOrphanRun b) := h.other rfl rfl rfl

theorem matchPage (h : Acts true s t) (id : Nat) (m : Mark) : Acts true s (matchPage id m t) := by
  unfold Machine.matchPage
  split
  · exact h.matchStart _ _
  · split
    · exact h.matchReading _ _ _
    · exact ((h.recordCause _ _ _).setRef _).matchStart _ _
  · split
    · exact h.matchRun _ _ _
    · exact (h.setRef _).matchStart _ _

theorem faultReading (h : Acts true s t) (c : SetCause) : Acts true s (faultReading c t) := by
  unfold Machine.faultReading
  split
  · exact h.recordCause _ _ _
  · exact h

theorem matchUnread (h : Acts true s t) (id : Nat) : Acts true s (matchUnread id t) := by
  unfold Machine.matchUnread
  split
  · rename_i n _ _ _
    have assigned : Acts true s (assignSheet id n none .waste t) := h.other rfl rfl rfl
    exact assigned.recordCause _ _ _
  · exact h.assignToRun _ _
  · exact h.makeOrphan _ _

theorem matchEntry (h : Acts true s t) (id : Nat) (d : Decoded) : Acts true s (matchEntry id d t) := by
  unfold Machine.matchEntry
  split
  · exact h.matchUnread _
  · split
    · exact h
    · exact ((h.faultReading .shortSet).setRef .none).setOrphanRun false
    · exact h.matchPage _ _
    · exact h.matchPage _ _

theorem removeSheet (h : Acts e s t) (id : Nat) : Acts e s (removeSheet id t) := h.other rfl rfl rfl

theorem retireWaste (h : Acts true s t) (x : SheetEntry) : Acts true s (retireWaste x t) :=
  (h.removeSheet x.id).evalTrackFull.testDivertedOpt _

theorem retireLost (h : Acts true s t) (x : SheetEntry) : Acts true s (retireLost x t) :=
  Acts.other ((((h.removeSheet x.id).evalTrackFull.recordCauseOpt x.set .missingSheet).testDivertedOpt x.set).lineFault
    .missingSheet x.set) rfl rfl rfl

theorem retireAtOnce (h : Acts true s t) (id : Nat) : Acts true s (retireAtOnce id t) := by
  unfold Machine.retireAtOnce
  split
  · split
    · exact h.retireWaste _
    · split
      · exact h.retireLost _
      · exact h
  · exact h

theorem enterSheet (h : Acts true s t) (row : Pos) (x : RowSheet) : Acts true s (enterSheet row t x) := by
  have made : Acts true s ((appendEntry (newEntry t row x) t).noteMade t.track.nextId) := h.other rfl rfl rfl
  exact Acts.other ((made.matchEntry t.track.nextId x.decoded).retireAtOnce t.track.nextId) rfl rfl rfl

theorem planRow (h : Acts true s t) : Acts true s (planRow t) := by
  unfold Machine.planRow
  split
  · exact h
  · exact h.extendPlan

theorem enterRow (h : Acts true s t) (r : DecodedRow) : Acts true s (enterRow r t) := by
  unfold Machine.enterRow
  split
  · exact ((h.lineFault .trackOverflow t.track.ref.number).faultReading .unreadPage).requestKnife _
  · exact ((foldl (fun _ x k => k.enterSheet r.row x) r.sheets h).requestKnife r.row).planRow.evalTrackFull

theorem closeOne (h : Acts true s t) (r : OpenRow) : Acts true s (closeOne r t) := by
  have counted : Acts true s (countRow (decodedRow t r) (advanceRow r t)) := h.other rfl rfl rfl
  have entered := counted.enterRow (decodedRow t r)
  have hunting : Acts true s (enterHunt (Machine.enterRow (decodedRow t r) (countRow (decodedRow t r) (advanceRow r t)))) :=
    entered.other rfl rfl rfl
  unfold Machine.closeOne
  dsimp only
  split
  · exact (((hunting.raiseCond .lockLost .none).faultReading .lostLock).setRef .none).setOrphanRun false
  · exact entered

theorem closePassed (fuel : Nat) : ∀ {t : State}, Acts true s t → Acts true s (closePassed fuel t) := by
  induction fuel with
  | zero => exact id
  | succ fuel ih =>
    intro t h
    unfold Machine.closePassed
    split
    · split
      · exact ih (h.closeOne _)
      · exact h
    · exact h

theorem closeRow (h : Acts true s t) (r : OpenRow) : Acts true s (closeRow r t) := (h.closeOne r).closePassed 2

theorem captureMark (h : Acts e s t) (lane : Lane) (row : Pos) (b : Bool) (c : Cells) (d : Decoded) :
    Acts e s (captureMark lane row b c d t) := by
  unfold Machine.captureMark
  split
  · unfold offerCapture
    dsimp only
    split
    · exact (h.setReader _).raiseCond _ _
    · split
      · exact h.other rfl rfl rfl
      · exact h
  · exact h

theorem matchBar (h : Acts true s t) (r : OpenRow) (lane : Lane) (pos : Pos) (c : Cells) (b : Bool) :
    Acts true s (matchBar r lane pos c b t) := by
  have seen : ∀ x, Acts true s (t.setReader x) := h.setReader
  unfold Machine.matchBar
  dsimp only
  split
  · exact ((seen _).captureMark _ _ _ _ _).closeRow _
  · exact (seen _).captureMark _ _ _ _ _

theorem takeBar (h : Acts true s t) (lane : Lane) (pos : Pos) (c : Cells) (b : Bool) :
    Acts true s (takeBar lane pos c b t) := by
  have locked : Acts true s (lockOn pos t) := h.other rfl rfl rfl
  unfold Machine.takeBar
  split
  · split
    · exact h.matchBar _ _ _ _ _
    · exact h
  · exact (locked.setHold _ _).matchBar _ _ _ _ _

/-! ### The accumulator's events -/

theorem countPage (h : Acts e s t) (x : SheetEntry) : Acts e s (countPage x t) := by
  unfold Machine.countPage
  split
  · exact h.updateSetOpt _ _ fun _ => ⟨rfl, rfl, rfl, fun _ => ⟨rfl, rfl⟩⟩
  · exact h

theorem markSkew (h : Acts e s t) (x : SheetEntry) : Acts e s (markSkew x t) := by
  unfold Machine.markSkew
  split
  · exact h.updateSetOpt _ _ fun _ => ⟨rfl, rfl, rfl, fun _ => ⟨rfl, rfl⟩⟩
  · exact h

theorem checkComplete (h : Acts e s t) : Acts e s (checkComplete t) := by
  have done : Acts e s (t.setAcc { t.acc with state := .complete }) := h.other rfl rfl rfl
  unfold Machine.checkComplete
  split
  · split
    · exact (done.putSetState _ rfl).runSteps
    · exact h
  · exact h

theorem lieForeign (h : Acts e s t) (n : Option Nat) : Acts e s (lieForeign n t) := by
  cases n <;> exact h.other rfl rfl rfl

theorem matchArrival (h : Acts true s t) (x : SheetEntry) : Acts true s (matchArrival x t) := by
  have taken := (((h.removeSheet x.id).evalTrackFull.countPage x).markSkew x)
  have opened : ∀ n, Acts true s (openBin n (Machine.markSkew x (Machine.countPage x (Machine.evalTrackFull
      (Machine.removeSheet x.id t))))) := fun _ => taken.other rfl rfl rfl
  have counted : Acts true s (countSheetIn (Machine.markSkew x (Machine.countPage x (Machine.evalTrackFull
      (Machine.removeSheet x.id t))))) := taken.other rfl rfl rfl
  unfold Machine.matchArrival
  dsimp only
  split
  · exact (opened _).checkComplete
  · exact (taken.recordCauseOpt _ _).testDivertedOpt _
  all_goals
    split
    · exact counted.checkComplete
    · exact (((taken.lieForeign x.set).recordCauseOpt x.set .accCollision).recordCauseOpt _ .accCollision).lineFault _ _

theorem strayArrival (h : Acts true s t) : Acts true s (strayArrival t) := by
  have faulted := h.lineFault .straySheet t.acc.held
  unfold Machine.strayArrival
  dsimp only
  split
  · exact faulted.other rfl rfl rfl
  · exact faulted
  all_goals exact (faulted.lieForeign none).recordCauseOpt _ _

theorem takeArrival (h : Acts true s t) : Acts true s (takeArrival t) := by
  unfold Machine.takeArrival
  split
  · exact (h.matchArrival _).examStack.examObligation.evalAccBlocked
  · exact h.strayArrival.examStack.examObligation.evalAccBlocked

theorem expireHold (h : Acts true s t) : Acts true s (expireHold t) := by
  unfold Machine.expireHold
  split
  · exact h
  · dsimp only
    split
    · split
      · exact (h.setAcc _).recordCause _ _ _
      · exact h.setAcc _
    · exact h.setAcc _

theorem expireRelease (h : Acts true s t) : Acts true s (expireRelease t) := by
  unfold Machine.expireRelease
  split
  · exact h
  · exact ((h.setAcc _).recordCauseOpt _ _).lineFault _ _

theorem afterEmpty (h : Acts e s t) : Acts e s (afterEmpty t) := (h.setObligation .clear).evalAccBlocked

theorem endDump (h : Acts true s t) : Acts true s (endDump t) := by
  unfold Machine.endDump
  split
  · exact foldl (fun _ n k => k.testDiverted n) _ (h.setAcc _).afterEmpty
  all_goals exact h

theorem expireDump (h : Acts e s t) : Acts e s (expireDump t) := by
  unfold Machine.expireDump
  split
  · exact h
  · exact (h.setAcc _).lineFault _ _

theorem endStroke (h : Acts e s t) (k : Stroke) : Acts e s (endStroke k t) := by
  have off := h.setAcc { t.acc with stroke := none, jogTimeout := none }
  have interval : Acts e s (restartInterval (t.setAcc { t.acc with stroke := none, jogTimeout := none })) := by
    unfold restartInterval
    split <;> exact off.setAcc _
  have squared : ∀ {v}, Acts e s v → Acts e s (squareUp k v) := by
    intro v a
    unfold squareUp
    split
    · exact a.updateSetOpt _ _ fun _ => ⟨rfl, rfl, rfl, fun _ => ⟨rfl, rfl⟩⟩
    · exact a
  have passed : ∀ {v}, Acts e s v → Acts e s (passStep k v) := by
    intro v a
    unfold passStep passJog
    split
    · split
      · split
        · exact (a.updateSet _ (SetRec.pass .jog) fun _ => ⟨rfl, rfl, rfl, fun _ => ⟨rfl, rfl⟩⟩).runSteps
        · exact a
      · exact a
    · exact a
  exact (passed (squared (interval.setObligation .clear))).examStack

theorem jogDone (h : Acts e s t) : Acts e s (jogDone t) := by
  unfold Machine.jogDone
  split
  · exact h.endStroke _
  · exact h

theorem expireJog (h : Acts e s t) : Acts e s (expireJog t) := by
  unfold Machine.expireJog
  split
  · exact h
  · exact (h.setAcc _).lineFault _ _

theorem expireInterval (h : Acts e s t) : Acts e s (expireInterval t) := by
  unfold Machine.expireInterval
  split
  · exact h
  · refine Acts.setObligation ?_ _
    unfold restartInterval
    split
    · exact (h.setAcc _).setAcc _
    · exact (h.setAcc _).setAcc _
    all_goals exact h.setAcc _

/-! ### The folder and the belt -/

theorem setFolder (h : Acts e s t) (x : Folder) : Acts e s (t.setFolder x) := h.other rfl rfl rfl

theorem setBelt (h : Acts e s t) (x : Delivery) : Acts e s (t.setBelt x) := h.other rfl rfl rfl

theorem enterFolder (h : Acts e s t) : Acts e s (enterFolder t) := by
  unfold Machine.enterFolder
  split
  · unfold endRelease
    split
    · exact ((h.setAcc _).setFolder _).afterEmpty
    · exact ((h.setAcc _).setFolder _).evalAccBlocked.examDump
  · exact h.lineFault _ _

theorem joinBelt (h : Acts e s t) (n : Nat) (f : Folder) : Acts e s (joinBelt n f t) := by
  have moved : Acts e s (if t.setState n = some .folding then Machine.putSetState n .onBelt t else t) := by
    split
    · exact h.putSetState n rfl
    · exact h
  unfold Machine.joinBelt
  dsimp only
  split
  · exact moved.other rfl rfl rfl
  · exact moved.other rfl rfl rfl

theorem leaveFolder (h : Acts e s t) : Acts e s (leaveFolder t) := by
  unfold Machine.leaveFolder
  split
  · exact Acts.examHandOver (Acts.other (h.joinBelt _ _) rfl rfl rfl)
  · exact h.joinBelt _ _
  · exact h.lineFault _ _

theorem expireFold (h : Acts true s t) : Acts true s (expireFold t) := by
  unfold Machine.expireFold
  split
  · exact ((h.setFolder _).recordCause _ _ _).lineFault _ _
  · exact h

theorem wantBeltGate (h : Acts e s t) : Acts e s (wantBeltGate t) := h.same (wantBeltGate_same t) (by decide)

theorem makeOffer (h : Acts e s t) (n : Nat) : Acts e s (makeOffer n t) :=
  ((h.setBelt _).putSetState n rfl).raiseCond _ _

theorem endOffer (h : Acts e s t) : Acts e s (endOffer t) := (h.setBelt _).removeCond _

theorem leaveBelt (h : Acts e s t) : Acts e s (leaveBelt t) := h.same (leaveBelt_same t) (by decide)

theorem reachEnd (h : Acts true s t) : Acts true s (reachEnd t) := by
  unfold Machine.reachEnd
  split
  · exact h.lineFault _ _
  · split
    · exact h.lineFault _ _
    · have there := h.setBelt { t.belt with atEnd := true, travel := none, travelPaused := false }
      unfold routeHead
      split
      · exact there
      · split
        · exact there.wantBeltGate
        · split
          · exact (there.recordCause _ _ _).wantBeltGate
          · split
            · exact there.makeOffer _
            · exact there

theorem expireTravel (h : Acts e s t) : Acts e s (expireTravel t) := by
  unfold Machine.expireTravel
  split
  · exact h
  · exact (h.setBelt _).lineFault _ _

theorem endGate (h : Acts true s t) : Acts true s (endGate t) := by
  unfold Machine.endGate
  split
  · exact ((h.setBelt _).leaveBelt.testDivertedOpt _).examHandOver
  · exact h

theorem expireGate (h : Acts e s t) : Acts e s (expireGate t) := by
  unfold Machine.expireGate
  split
  · exact h
  · exact (h.setBelt _).lineFault _ _

theorem expireOffer (h : Acts true s t) : Acts true s (expireOffer t) := by
  unfold Machine.expireOffer
  split
  · exact ((h.endOffer.recordCause _ _ _).raiseCond _ _).wantBeltGate
  · exact h

/-! ### The line -/

theorem openGuard (h : Acts e s t) : Acts e s (openGuard t) := by
  unfold Machine.openGuard
  split
  · exact (h.lineFault _ _).setLine _
  · exact h.setLine _
  · exact h

theorem closeGuard (h : Acts e s t) : Acts e s (closeGuard t) := by
  unfold Machine.closeGuard
  split
  · exact Acts.examObligation (Acts.examStack ((h.setLine { t.line with guard := .closed }).same (examBeltGate_same _) (by decide)))
  · exact h

theorem withdrawOffer (h : Acts e s t) : Acts e s (withdrawOffer t) := by
  unfold Machine.withdrawOffer
  split
  · exact h.endOffer.raiseCond _ _
  · exact h

theorem emptyMachine (h : Acts e s t) (f : Folder → Folder) : Acts e s (emptyMachine f t) := by
  have emptied : Acts e s (leaveFolderAs f (emptyStack (emptyFiring (emptyTracking t)))) := h.other rfl rfl rfl
  exact Acts.other emptied.withdrawOffer rfl rfl rfl

end Acts

theorem SetRec.interrupt_kept (r : SetRec) : RecordKept r r.interrupt := by
  unfold SetRec.interrupt
  split
  · rename_i fails
    have alive : r.state.terminal = false := by
      revert fails
      cases r.state <;> decide
    exact .alive rfl alive rfl rfl
  · exact .refl r

/-- A set written off keeps its cause, and PURGED for none does not bear on the Reprint Queue. -/
theorem purge_cause_kept (r : SetRec) : RecordKept r { r with cause := some (r.cause.getD .purged) } := by
  refine ⟨rfl, rfl, rfl, fun _ => ⟨?_, rfl⟩⟩
  unfold SetRec.reprints
  cases r.cause <;> rfl

namespace Acts

theorem abandonMachine (h : Acts e s t) : Acts e s (abandonMachine t) := by
  have interrupted : Acts e s (interruptSets t) := h.tail (.records t _ fun _ r _ => SetRec.interrupt_kept r)
  exact interrupted.emptyMachine _

theorem purgeMachine (h : Acts true s t) : Acts true s (purgeMachine t) := by
  have purged : Acts true s (purgeSets t) := by
    refine foldl (fun w n k => ?_) _ h
    exact (k.updateSet n _ purge_cause_kept).tail (.finish _ n .diverted rfl rfl)
  exact (purged.emptyMachine _).setLine _

theorem powerOn (h : Acts e s t) (retain closed : Bool) : Acts e s (powerOn retain closed t) := by
  unfold Machine.powerOn
  split
  · have off : Acts e s (t.setLinks t.links.poweredUp) := h.setLinks _ fun p => by cases p <;> exact .inl rfl
    have warm : Acts e s (warmLine (guardOf closed) (gateToWaste (unready
        (Machine.abandonMachine (t.setLinks t.links.poweredUp))))) := off.abandonMachine.other rfl rfl rfl
    exact warm.raiseCond _ _
  · exact h.tail (.cold t _)

theorem endSweep (h : Acts e s t) (x : Guard) : Acts e s (endSweep x t) := by
  unfold Machine.endSweep
  split
  · have cleared : Acts e s (clearAllConds t) := h.setLinks _ fun p => by cases p <;> exact .inr rfl
    exact (cleared.setLine _).raiseCond _ _
  · exact h

/-! ### The links -/

theorem rejectFrame (h : Acts e s t) (p : Port) : Acts e s (rejectFrame p t) :=
  (h.setPort p { t.port p with rx := none } (.inl rfl)).raiseCond _ _

theorem enqueue (h : Acts e s t) (p : Port) (kind : Byte) (body : List Byte) : Acts e s (enqueue p kind body t) := by
  unfold Machine.enqueue
  dsimp only
  split
  · exact h.setPort p _ (.inl rfl)
  · have full := h.setPort p
      { t.port p with queue := (t.port p).queue.dropLast ++ [{ kind := kind, body := body, overrun := true }] } (.inl rfl)
    exact full.raiseCond _ _

theorem receiveByte (h : Acts e s t) (p : Port) (b : RxByte) : Acts e s (receiveByte p b t) := by
  unfold Machine.receiveByte
  split
  · exact h
  · unfold huntByte
    split
    · exact h
    · split
      · exact h.rejectFrame p
      · exact h.setPort p _ (.inl rfl)
  · unfold frameByte
    split
    · exact h.rejectFrame p
    · split
      · exact h.setPort p _ (.inl rfl)
      · exact h.rejectFrame p
      · exact Acts.enqueue (h.setPort p { t.port p with rx := none } (.inl rfl)) p _ _

theorem frameOver (h : Acts e s t) (p : Port) : Acts e s (frameOver p t) := by
  unfold Machine.frameOver
  split
  · exact h.rejectFrame p
  · exact h

theorem raiseLink (h : Acts e s t) (p : Port) : Acts e s (raiseLink p t) := by
  unfold Machine.raiseLink
  split
  · exact Acts.sendNotices (h.setPort p { t.port p with link := .up } (.inl rfl)) p _
  · exact h

theorem breakLink (h : Acts e s t) (p : Port) : Acts e s (breakLink p t) := by
  unfold Machine.breakLink
  split
  · have off := h.setPort p (PortState.poweredUp []) (.inr rfl)
    refine foldl (fun _ x k => ?_) _ ?_
    · split
      · exact k
      · exact k.raiseCond _ _
    · unfold breakEffect
      split
      · exact off
      · split
        · exact off.lineFault _ _
        · exact off
        · exact off
      · exact off.setBelt _
  · exact h

/-! ### The web -/

theorem fallDue (h : Acts true s t) (f : Firing) (lateness : Int) : Acts true s (fallDue f lateness t) := by
  have left : Acts true s (t.setQueue (t.firing.queue.filter fun g => g ≠ f)) := h.other rfl rfl rfl
  have due := left.takeDue f lateness t.firing.actual
  unfold Machine.fallDue
  dsimp only
  split
  · unfold askWithheld
    split
    · exact due
    · exact due.other rfl rfl rfl
    · exact due.other rfl rfl rfl
  · exact due

theorem sampleSpeed (h : Acts e s t) : Acts e s (sampleSpeed t) := by
  have sampled : Acts e s (t.setWeb (updateSpeed t.web)) := h.other rfl rfl rfl
  unfold Machine.sampleSpeed
  dsimp only
  split
  · exact sampled.raiseCond _ _
  · exact sampled

theorem updateFirings (h : Acts true s t) : Acts true s (updateFirings t) := by
  have retimed : Acts true s (retime t) := h.other rfl rfl rfl
  exact foldl (fun _ f k => k.fallDue f _) _ retimed

theorem evalHunting (h : Acts e s t) : Acts e s (evalHunting t) := by
  unfold Machine.evalHunting
  split
  · split
    · exact h.setHold _ _
    · exact h
  · exact h.setHold _ _

end Acts

/-! ### The rules of requests -/

/-- A rule of a request is a sequence of acts on a state in which no set has ended. -/
def RuleActs (rule : Rule) : Prop := ∀ (s : State) (body : List Byte), s.ev.ended = [] → Acts true s (rule body s).1

theorem RuleActs.withEmptyBody {rule : State → State × Reply} (h : ∀ s, s.ev.ended = [] → Acts true s (rule s).1) :
    RuleActs (withEmptyBody rule) := by
  intro s body none
  unfold Machine.withEmptyBody
  split
  · exact h s none
  · exact .here s

theorem RuleActs.withSetNumber {rule : Nat → State → State × Reply} (h : ∀ n s, Acts true s (rule n s).1) :
    RuleActs (withSetNumber rule) := by
  intro s body _
  unfold Machine.withSetNumber
  split
  · exact h _ s
  · exact .here s

theorem loadProfileRule_acts : RuleActs loadProfileRule := by
  intro s body _
  unfold loadProfileRule
  split
  · exact .here s
  · split
    · exact .here s
    · rename_i p _ _
      split
      · exact .here s
      · have installed : Acts true s (s.setTable { s.table with profile := p, profileLoaded := true }) :=
          (Acts.here s).tail (.profile s p true)
        exact installed.other rfl rfl rfl

theorem loadSetRule_acts : RuleActs loadSetRule := by
  intro s body _
  unfold loadSetRule
  split
  · exact .here s
  · rename_i room
    split
    · exact .here s
    · rename_i d _
      split
      · exact .here s
      · rename_i number
        split
        · exact .here s
        · rename_i tag
          split
          · exact .here s
          · refine (Acts.here s).tail (.load s d.record (by unfold tableCapacity at room; omega) (fun x mem same => ?_)
              (fun x mem same => ?_) rfl rfl)
            · exact number (List.find?_isSome.mpr ⟨x, mem, beq_iff_eq.mpr same⟩)
            · exact tag (List.find?_isSome.mpr ⟨x, mem, beq_iff_eq.mpr same⟩)

theorem amendRecord_acts {r : SetRec} (mem : r ∈ s.table.records) (raw : Amendment) (a : Amend) :
    Acts true s (amendRecord r raw a s).1 := by
  unfold amendRecord
  split
  · exact .here s
  · rename_i allowed
    have alive : r.state.terminal = false := by
      cases term : r.state.terminal with
      | false => rfl
      | true => exact absurd (by simp [Amend.wrongState, term]) allowed
    have merged : Acts true s (updateSet r.number a.merge s) :=
      (Acts.here s).updateFound a.merge mem (.alive rfl alive alive rfl)
    dsimp only
    split
    · exact .here s
    · dsimp only
      split
      · exact merged.goOn
      · exact merged

theorem amendSetRule_acts : RuleActs amendSetRule := by
  intro s body _
  unfold amendSetRule
  split
  · exact .here s
  · split
    · exact .here s
    · rename_i found
      split
      · exact .here s
      · split
        · exact .here s
        · exact amendRecord_acts (State.findSet_mem found).1 _ _

theorem cancelSetRule_acts : RuleActs cancelSetRule := by
  refine .withSetNumber fun n s => ?_
  split
  · exact .here s
  · exact (Acts.here s).tail (.finish s n .cancelled rfl rfl)
  · split <;> exact .here s

theorem releaseSetRule_acts : RuleActs releaseSetRule := by
  refine .withSetNumber fun n s => ?_
  split
  · exact .here s
  · rename_i r found
    split
    · exact .here s
    · split
      · exact .here s
      · split
        · rename_i held
          obtain ⟨mem, rfl⟩ := State.findSet_mem found
          have stopped : Acts true s (s.setAcc { s.acc with holdTimer := none }) := (Acts.here s).other rfl rfl rfl
          exact (stopped.updateFound (SetRec.finish .hold) mem (SetRec.finish_kept .hold (by rw [held]; rfl))).goOn
        · split
          · exact (Acts.here s).updateSet n _ fun _ => ⟨rfl, rfl, rfl, fun _ => ⟨rfl, rfl⟩⟩
          · exact .here s

theorem querySetRule_acts : RuleActs querySetRule := by
  refine .withSetNumber fun n s => ?_
  split <;> exact .here s

theorem takeCompletionRule_acts : RuleActs takeCompletionRule :=
  .withEmptyBody fun s none => (Acts.here s).tail (.completion s none)

theorem takeReprintRule_acts : RuleActs takeReprintRule :=
  .withEmptyBody fun s none => (Acts.here s).tail (.reprint s none)

theorem loadGeometryRule_acts : RuleActs loadGeometryRule := by
  intro s body _
  unfold loadGeometryRule
  split
  · exact .here s
  · split
    · exact .here s
    · dsimp only
      split
      · exact .here s
      · exact (Acts.here s).other rfl rfl rfl

theorem startRule_acts : RuleActs startRule := by
  refine .withEmptyBody fun s _ => ?_
  split
  · exact .here s
  · split
    · exact .here s
    · split
      · exact .here s
      · have run : Acts true s (restartHunt (clearFlags (s.setLine { s.line with state := .running }))) := by
          unfold restartHunt
          split <;> exact (Acts.here s).other rfl rfl rfl
        show Acts true s (grantStart s)
        unfold grantStart
        dsimp only
        split
        · exact run
        · exact run.raiseCond _ _

theorem stopRule_acts : RuleActs stopRule := by
  refine .withEmptyBody fun s _ => ?_
  split
  · exact (Acts.here s).other rfl rfl rfl
  · exact .here s

theorem purgeRule_acts : RuleActs purgeRule := by
  refine .withEmptyBody fun s _ => ?_
  split
  · exact .here s
  · split
    · exact .here s
    · split
      · exact .here s
      · exact (Acts.here s).purgeMachine

theorem setReadyRule_acts : RuleActs setReadyRule := by
  refine .withEmptyBody fun s _ => ?_
  split
  · exact .here s
  · have ready := (Acts.here (e := true) s).setBelt { s.belt with readiness := .ready }
    show Acts true s (offerWaiting _)
    unfold offerWaiting
    split
    · split
      · exact ready.makeOffer _
      · exact ready
    · exact ready

theorem acceptRule_acts : RuleActs acceptRule := by
  refine .withSetNumber fun n s => ?_
  split
  · have ended : Acts true s (makeTerminal n .delivered s) := (Acts.here s).tail (.finish s n .delivered rfl rfl)
    exact ended.endOffer.leaveBelt.examHandOver
  · exact .here s

theorem refuseRule_acts : RuleActs refuseRule := by
  intro s body _
  unfold refuseRule
  split
  · exact .here s
  · rename_i n code _
    split
    · have caused := (Acts.here s).endOffer.recordCause n .refused (routeIndex n s)
      exact (caused.updateSet n (fun r => { r with refuseCode := some code })
        fun _ => ⟨rfl, rfl, rfl, fun _ => ⟨rfl, rfl⟩⟩).wantBeltGate
    · exact .here s

theorem clearConditionRule_acts (p : Port) : RuleActs (clearConditionRule p) := by
  intro s body _
  unfold clearConditionRule
  split
  · exact .here s
  · split
    · exact .here s
    · exact Acts.foldl (fun _ x k => k.raiseCond _ _) _ (Acts.foldl (fun _ c k => k.removeCond c) _ (.here s))

/-! ### Events -/

/-- One event: acts from a state in which no set has ended to one in which none is left to join the queues; the web, the
queue of commands and the record of the event aside. -/
inductive Episode (s t : State) : Prop
  | mk (u : State) (acts : Acts true s.begin u) (joined : u.ev.ended = []) (links : t.links = u.links)
      (table : t.table = u.table)

/-- A sequence of events. -/
abbrev Course : State → State → Prop := Relation.ReflTransGen Episode

theorem Acts.course (acts : Acts true s.begin u) (joined : u.ev.ended = []) (links : t.links = u.links)
    (table : t.table = u.table) : Course s t := .single ⟨u, acts, joined, links, table⟩

/-- What touches neither the ports nor the table. -/
theorem Course.outside (links : t.links = s.links) (table : t.table = s.table) : Course s t :=
  .single ⟨s.begin, .here _, rfl, links, table⟩

/-- Once an event is settled, what is sent for it ends no set. -/
theorem flushNotices_ended (s : State) : (flushNotices s).ev.ended = s.ev.ended := by
  have ev : ∀ p w u, (sendNotices p w u).ev = u.ev := fun p w u => sendNotices_same p w u .ev (by decide)
  rfl

theorem settle_ended (s : State) : (settle s).ev.ended = [] := flushEnded_ended _

theorem event_course {rule : State → State} (h : Acts true s.begin (rule s.begin)) : Course s (event rule s) :=
  (h.settle.flushNotices).course ((flushNotices_ended _).trans (settle_ended _)) rfl rfl

theorem quiet_course {rule : State → State} (h : Acts false s.begin (rule s.begin)) (h' : Acts true s.begin (rule s.begin)) :
    Course s (quiet rule s) :=
  h'.flushNotices.course ((flushNotices_ended _).trans (h.ended_nil rfl)) rfl rfl

theorem input_course {rule : State → State} (h : Acts true s.begin (rule s.begin)) : Course s (input rule s) := by
  unfold input
  split
  · exact .refl
  · exact event_course h

theorem answer_course {p : Port} {k : Byte} {r : Reply} (h : Acts true s.begin u) : Course s (answer p k r u) := by
  have sent : (produce p (replyFrame (settle u) p k r) (settle u)).ev = (settle u).ev :=
    produce_same p _ _ .ev (by decide)
  refine ((h.settle.produce p (replyFrame (settle u) p k r)).flushNotices).course ?_ rfl rfl
  rw [flushNotices_ended, sent, settle_ended]

theorem popRequest_acts (p : Port) (s : State) : Acts e s.begin (popRequest p s).begin :=
  (Acts.here s.begin).setPort p { s.port p with queue := (s.port p).queue.tail } (.inl rfl)

theorem takeRequest_course {p : Port} {k : RequestKind} {rule : Rule} (h : RuleActs rule) (s : State) :
    Course s (takeRequest p k rule s) := by
  unfold takeRequest
  split
  · split
    · unfold decideRequest
      split
      · exact answer_course (popRequest_acts p s)
      · split
        · exact answer_course (popRequest_acts p s)
        · exact answer_course ((popRequest_acts p s).trans (h _ _ rfl))
    · exact .refl
  · exact .refl

theorem takeUndefined_course (p : Port) (s : State) : Course s (takeUndefined p s) := by
  unfold takeUndefined
  split
  · split
    · exact answer_course (popRequest_acts p s)
    · exact .refl
  · exact .refl

theorem foldl_course {α : Type} {f : State → α → State} (step : ∀ u x, Course u (f u x)) (xs : List α) :
    ∀ s, Course s (xs.foldl f s) := by
  induction xs with
  | nil => exact fun _ => .refl
  | cons x xs ih => exact fun s => (step s x).trans (ih _)

theorem inFreeOrder_course {α : Type} {take : State → α → State} (step : ∀ u x, Course u (take u x)) (xs : List α)
    (s : State) : Course s (inFreeOrder take xs s) := by
  obtain ⟨ys, _, order | order⟩ := inFreeOrder_eq_foldl take xs s
  · rw [order]; exact foldl_course step ys s
  · rw [order]; exact (Course.outside (s := s) (t := s.drawn) rfl rfl).trans (foldl_course step ys _)

theorem takeWatch_course (s : State) (w : Watch) : Course s (takeWatch s w) := by
  have z : Acts true s.begin s.begin := .here _
  cases w with
  | rowEdge =>
    simp only [takeWatch]
    split
    · split
      · exact event_course (z.closeRow _)
      · exact .refl
    · exact .refl
  | firePoint =>
    simp only [takeWatch]
    split
    · split
      · exact event_course (z.fallDue _ _)
      · exact .refl
    · exact .refl
  | gateArrival =>
    simp only [takeWatch]
    split
    · split
      · exact event_course (rule := passGate _) (z.other rfl rfl rfl)
      · exact .refl
    · exact .refl
  | wasteRetirement =>
    simp only [takeWatch]
    split
    · split
      · exact event_course (z.retireWaste _)
      · exact .refl
    · exact .refl
  | lostRetirement =>
    simp only [takeWatch]
    split
    · split
      · exact event_course (z.retireLost _)
      · exact .refl
    · exact .refl
  | travel =>
    simp only [takeWatch]
    split
    · exact event_course (rule := takeTravel) ((z.lineFault _ _).setLine _)
    · exact .refl

theorem takePart_course (s : State) (x : SpeedPart) : Course s (takePart s x) := by
  have z : Acts true s.begin s.begin := .here _
  cases x with
  | firings => exact event_course z.updateFirings
  | stack => exact event_course z.examObligation.evalAccBlocked
  | hunting => exact event_course z.evalHunting
  | belt => exact event_course (z.same (updateTravel_same _) (by decide))

theorem receiveBytes_course (p : Port) (bytes : List RxByte) (s : State) : Course s (receiveBytes p bytes s) :=
  foldl_course (fun u b => quiet_course ((Acts.here u.begin).receiveByte p b) ((Acts.here u.begin).receiveByte p b)) bytes s

theorem stepWeb_course (d : Direction) (s : State) : Course s (stepWeb d s) := by
  have moved : Course s (movePosition d s) := .outside rfl rfl
  unfold stepWeb
  dsimp only
  split
  · exact moved
  · exact moved.trans (inFreeOrder_course takeWatch_course _ _)

theorem updateSpeeds_course (s : State) : Course s (updateSpeeds s) := by
  have sampled : Course s (quiet sampleSpeed s) :=
    quiet_course (Acts.here s.begin).sampleSpeed (Acts.here s.begin).sampleSpeed
  unfold updateSpeeds
  dsimp only
  split
  · exact sampled
  · exact sampled.trans (inFreeOrder_course takePart_course _ _)

theorem readBar_course (lane : Lane) (pos : Pos) (x : Cells) (b : Bool) (s : State) : Course s (readBar lane pos x b s) := by
  unfold readBar
  split
  · exact .refl
  · split
    · exact event_course ((Acts.here s.begin).takeBar lane pos x b)
    · exact .refl

/-- A command is a sequence of events. -/
theorem exec_course (c : Instr) (h : exec c s = .next t) : Course s t := by
  have k : ∀ {u : State}, exec c s = .next u → Course s u → Course s t := by
    intro u same course
    rw [h] at same
    cases same
    exact course
  have z : Acts true s.begin s.begin := .here _
  have q : Acts false s.begin s.begin := .here _
  have same : ∀ {rule : State → State × Reply}, (∀ v, (rule v).1 = v) → RuleActs (withEmptyBody rule) :=
    fun kept => .withEmptyBody fun v _ => by rw [kept]
  cases c with
  | loadProfile => exact k rfl (takeRequest_course loadProfileRule_acts s)
  | loadSet => exact k rfl (takeRequest_course loadSetRule_acts s)
  | amendSet => exact k rfl (takeRequest_course amendSetRule_acts s)
  | cancelSet => exact k rfl (takeRequest_course cancelSetRule_acts s)
  | releaseSet => exact k rfl (takeRequest_course releaseSetRule_acts s)
  | querySet => exact k rfl (takeRequest_course querySetRule_acts s)
  | takeCompletion => exact k rfl (takeRequest_course takeCompletionRule_acts s)
  | takeReprint => exact k rfl (takeRequest_course takeReprintRule_acts s)
  | loadGeometry => exact k rfl (takeRequest_course loadGeometryRule_acts s)
  | start => exact k rfl (takeRequest_course startRule_acts s)
  | stop => exact k rfl (takeRequest_course stopRule_acts s)
  | purge => exact k rfl (takeRequest_course purgeRule_acts s)
  | resetLine =>
    exact k rfl (takeRequest_course (.withEmptyBody fun v _ => (Acts.here v).abandonMachine.lineFault _ _) s)
  | clearCapture => exact k rfl (takeRequest_course (.withEmptyBody fun v _ => (Acts.here v).other rfl rfl rfl) s)
  | clearTally => exact k rfl (takeRequest_course (.withEmptyBody fun v _ => (Acts.here v).other rfl rfl rfl) s)
  | setReady => exact k rfl (takeRequest_course setReadyRule_acts s)
  | setNotReady => exact k rfl (takeRequest_course (.withEmptyBody fun v _ => (Acts.here v).setBelt _) s)
  | accept => exact k rfl (takeRequest_course acceptRule_acts s)
  | refuse => exact k rfl (takeRequest_course refuseRule_acts s)
  | readStatus p =>
    refine k rfl (takeRequest_course (.withEmptyBody fun v _ => ?_) s)
    dsimp only
    split
    · exact (Acts.here v).other rfl rfl rfl
    · exact .here v
  | readTally p => exact k rfl (takeRequest_course (same fun _ => rfl) s)
  | readCapture p => exact k rfl (takeRequest_course (same fun _ => rfl) s)
  | clearCondition p => exact k rfl (takeRequest_course (clearConditionRule_acts p) s)
  | undefinedRequestKind p => exact k rfl (takeUndefined_course p s)
  | goodFrame p bytes => exact k rfl (receiveBytes_course p bytes s)
  | frameTimeout p => exact k rfl (quiet_course (q.frameOver p) (z.frameOver p))
  | linkUp p => exact k rfl (quiet_course (q.raiseLink p) (z.raiseLink p))
  | linkBreak p => exact k rfl (quiet_course (q.breakLink p) (z.breakLink p))
  | encoderStep d => exact k rfl (stepWeb_course d s)
  | speedUpdate => exact k rfl (updateSpeeds_course s)
  | barEvent lane pos x truncated => exact k rfl (readBar_course lane pos x truncated s)
  | arrival => exact k rfl (input_course z.takeArrival)
  | holdTimerExpiry => exact k rfl (event_course z.expireHold)
  | handOver => exact k rfl (event_course z.examHandOver)
  | releaseTimeout => exact k rfl (event_course z.expireRelease)
  | dumpStart => exact k rfl (event_course z.examDump)
  | dumpDone => exact k rfl (input_course z.endDump)
  | dumpTimeout => exact k rfl (event_course z.expireDump)
  | jogStrokeStart => exact k rfl (event_course z.examSquaring.examObligation)
  | jogDone => exact k rfl (input_course z.jogDone)
  | jogTimeout => exact k rfl (event_course z.expireJog)
  | jogIntervalExpiry => exact k rfl (event_course z.expireInterval)
  | folderEntry => exact k rfl (input_course z.enterFolder)
  | foldExit => exact k rfl (input_course z.leaveFolder)
  | foldTimerExpiry => exact k rfl (event_course z.expireFold)
  | beltEnd => exact k rfl (input_course z.reachEnd)
  | beltTravelExpiry => exact k rfl (event_course z.expireTravel)
  | beltGateStroke => exact k rfl (event_course (z.same (examBeltGate_same _) (by decide)))
  | beltGateDone => exact k rfl (input_course z.endGate)
  | beltGateTimeout => exact k rfl (event_course z.expireGate)
  | offerTimerExpiry => exact k rfl (event_course z.expireOffer)
  | guardOpen => exact k rfl (input_course z.openGuard)
  | guardClose => exact k rfl (input_course z.closeGuard)
  | powerUp retain closed => exact k rfl (quiet_course (q.powerOn retain closed) (z.powerOn retain closed))
  | sweepComplete closed => exact k rfl (quiet_course (q.endSweep _) (z.endSweep _))

theorem PortState.tick_conds (x : PortState) : x.tick.conds = x.conds := by
  unfold PortState.tick PortState.tickTx PortState.sentByte
  split
  · rfl
  · dsimp only
    split
    · rfl
    · split <;> rfl

theorem ticked_course (s : State) : Course s s.ticked :=
  ((Acts.here s.begin).setLinks
    { job := s.links.job.tick, line := s.links.line.tick, delivery := s.links.delivery.tick }
    fun p => by cases p <;> exact .inl (PortState.tick_conds _)).course rfl rfl rfl

theorem schedule_course (cs : List Instr) (s : State) : Course s (schedule cs s) := by
  unfold schedule
  split <;> exact .outside rfl rfl

theorem idle_course (s : State) : Course s (idle s) := by
  unfold idle
  split
  · exact (ticked_course s).trans (schedule_course _ _)
  · exact schedule_course _ _

theorem step_course (h : step s = .next t) : Course s t := by
  unfold step at h
  split at h
  · cases h
    exact idle_course s
  · rename_i rest _
    have front : Course s { s with pending := rest } := .outside rfl rfl
    exact front.trans (exec_course _ h)

/-! ### What every step keeps -/

theorem Course.portsOk (h : Course s t) (ok : PortsOk s) : PortsOk t := by
  induction h with
  | refl => exact ok
  | tail _ episode ih =>
    obtain ⟨u, acts, _, links, _⟩ := episode
    exact (acts.portsOk (ih.of_links rfl)).of_links links

theorem Course.outcomesOk (h : Course s t) (ok : OutcomesOk s.table) : OutcomesOk t.table := by
  induction h with
  | refl => exact ok
  | tail _ episode ih =>
    obtain ⟨u, acts, joined, _, table⟩ := episode
    have queues : QueuesOk u := acts.queuesOk ((outcomesMid_nil_iff _).mpr ih)
    unfold QueuesOk at queues
    rw [joined] at queues
    rw [table]
    exact (outcomesMid_nil_iff _).mp queues

/-- Settles O8: every act of an event keeps the outcome queues sound, the sets it ended aside, and these join the queues at
its end. -/
theorem outcomeQueuesStayInOrder : Obligations.OutcomeQueuesStayInOrder := by
  unfold Obligations.OutcomeQueuesStayInOrder
  exact fun s t ok run => (step_course run).outcomesOk ok

/-- The bounds of a port, its pending conditions aside. -/
def PortBounded (x : PortState) : Prop :=
  x.queue.length ≤ 4 ∧ (x.link = .down → x.queue = [] ∧ x.rx = none ∧ x.tx = [])

theorem PortMove.bounded {c : During} {a b : PortState} (m : PortMove c a b) (h : PortBounded a) : PortBounded b := by
  refine ⟨m.queue.trans (max_le le_rfl h.1), fun down => ?_⟩
  rcases m.down down with empty | ⟨was, queue, rx, tx⟩
  · exact empty
  · obtain ⟨noQueue, noRx, noTx⟩ := h.2 was
    rw [noQueue] at queue
    rw [noTx] at tx
    exact ⟨List.length_eq_zero_iff.mp (Nat.le_zero.mp queue), rx noRx, List.length_eq_zero_iff.mp (Nat.le_zero.mp tx)⟩

theorem Move.portsBounded {c : During} {g : Bool} (m : Move c g u v) (h : ∀ p, PortBounded (u.port p)) (p : Port) :
    PortBounded (v.port p) := by
  cases m with
  | links x move => exact (move p).bounded (h p)
  | cold => cases p <;> exact ⟨Nat.zero_le _, fun _ => ⟨rfl, rfl, rfl⟩⟩
  | _ => exact h p

/-- Settles O4: every move keeps the bounds of the ports, and every act their pending conditions. -/
theorem portsStayInBounds : Obligations.PortsStayInBounds := by
  unfold Obligations.PortsStayInBounds
  intro s t ok run p
  have bounded : ∀ p, PortBounded (t.port p) := step_keeps (P := fun s => ∀ p, PortBounded (s.port p))
    (fun _ _ _ m h => m.portsBounded h) (fun _ _ => id) run fun p => ⟨(ok p).queueShort, (ok p).downEmpty⟩
  have conds : PortsOk t := (step_course run).portsOk fun p => ⟨(ok p).condsOwn, (ok p).condsOrdered⟩
  exact ⟨(bounded p).1, (bounded p).2, (conds p).own, (conds p).ordered⟩

end Sys2Proof.Machine
end

section
/-! PROOFS. The step and the time that passes in it, the invariants right after reset, the arithmetic of the clearance, and
the answers of section 10.4: the port's own, the refusals of the owning rules, and the requests that only read, load or
clear. -/

namespace Sys2Proof.Machine

variable {s t u : State}

/-! ### The step -/

/-- Settles O1: it is the definition of the step on a queue that is not empty. -/
theorem stepRunsTheFront : Obligations.StepRunsTheFront := by
  unfold Obligations.StepRunsTheFront
  exact fun _ _ _ => rfl

theorem tickTimer_eq (x : Timer) : tickTimer x = countedDown x := by
  rcases x with _ | _ | n <;> rfl

theorem Accumulator.tick_eq (a : Accumulator) : a.tick = { a with
    jogInterval := countedDown a.jogInterval
    holdTimer := countedDown a.holdTimer
    jogTimeout := countedDown a.jogTimeout
    releaseTimeout := countedDown a.releaseTimeout
    dumpTimeout := countedDown a.dumpTimeout } := by
  simp only [Accumulator.tick, tickTimer_eq]

theorem Delivery.tick_eq (b : Delivery) : b.tick = { b with
    travel := countedDown b.travel
    gateTimeout := countedDown b.gateTimeout
    offerTimer := countedDown b.offerTimer } := by
  simp only [Delivery.tick, tickTimer_eq]

theorem Supervisor.tickRun_eq (l : Supervisor) : l.tickRun = { l with
    tally := { l.tally with runTime := (msCounted true l.tally.runTime l.runFraction).1 }
    runFraction := (msCounted true l.tally.runTime l.runFraction).2 } := by
  unfold Supervisor.tickRun msCounted msLength
  by_cases whole : l.runFraction + 1 < 1000
  · simp [whole]
  · simp [whole, Tally.ran]

theorem Supervisor.tickHold_eq (l : Supervisor) : l.tickHold = { l with
    tally := { l.tally with holdTime := (msCounted true l.tally.holdTime l.holdFraction).1 }
    holdFraction := (msCounted true l.tally.holdTime l.holdFraction).2 } := by
  unfold Supervisor.tickHold msCounted msLength
  by_cases whole : l.holdFraction + 1 < 1000
  · simp [whole]
  · simp [whole, Tally.held]

theorem Supervisor.tick_eq (l : Supervisor) (permit hold : Bool) : l.tick permit hold = { l with
    tally := { l.tally with
      runTime := (msCounted permit l.tally.runTime l.runFraction).1
      holdTime := (msCounted hold l.tally.holdTime l.holdFraction).1 }
    runFraction := (msCounted permit l.tally.runTime l.runFraction).2
    holdFraction := (msCounted hold l.tally.holdTime l.holdFraction).2 } := by
  unfold Supervisor.tick
  cases permit <;> cases hold
  · rfl
  · exact l.tickHold_eq
  · exact l.tickRun_eq
  · exact (l.tickRun.tickHold_eq).trans (by rw [l.tickRun_eq])

/-- Sending touches nothing of a port but the frames to send and how far the first has come. -/
theorem PortState.tickTx_frame (a : PortState) :
    a.tickTx = { a with tx := a.tickTx.tx, txSent := a.tickTx.txSent, txPhase := a.tickTx.txPhase } := by
  unfold PortState.tickTx PortState.sentByte
  split
  · rfl
  · split
    · rfl
    · split <;> rfl

theorem PortState.tickTx_silent {a : PortState} (h : a.tx = []) : a.tickTx = { a with txPhase := 0 } := by
  unfold PortState.tickTx
  rw [h]

theorem PortState.tickTx_within {a : PortState} {f : TxFrame} {rest : List TxFrame} (h : a.tx = f :: rest)
    (k : a.txPhase + 23040 < 1000000) : a.tickTx = { a with txPhase := a.txPhase + 23040 } := by
  unfold PortState.tickTx
  rw [h]
  exact if_pos k

theorem PortState.tickTx_byte {a : PortState} {f : TxFrame} {rest : List TxFrame} (h : a.tx = f :: rest)
    (k : 1000000 ≤ a.txPhase + 23040) :
    a.tickTx = { a with txPhase := a.txPhase + 23040 - 1000000 }.sentByte f := by
  unfold PortState.tickTx
  rw [h]
  exact if_neg (Nat.not_lt.mpr k)

theorem PortState.tick_ticked (a : PortState) : PortTicked a a.tick where
  link := by rw [PortState.tick, PortState.tickTx_frame]
  queue := by rw [PortState.tick, PortState.tickTx_frame]
  conds := by rw [PortState.tick, PortState.tickTx_frame]
  rx := rfl
  silent h := by rw [PortState.tick, PortState.tickTx_silent h]; exact ⟨h, rfl, rfl⟩
  within f rest h k := by rw [PortState.tick, PortState.tickTx_within h k]; exact ⟨rfl, rfl, rfl⟩
  byte f rest h k more := by
    rw [PortState.tick, PortState.tickTx_byte h k, PortState.sentByte, if_pos more]
    exact ⟨rfl, rfl, rfl⟩
  whole f rest h k last := by
    rw [PortState.tick, PortState.tickTx_byte h k, PortState.sentByte, if_neg (Nat.not_lt.mpr last)]
    exact ⟨congrArg List.tail h, rfl, rfl⟩

theorem ticked_oneMicrosecond (s : State) : OneMicrosecond s s.ticked where
  ports p := by cases p <;> exact PortState.tick_ticked _
  web := rfl
  acc := s.acc.tick_eq
  folder := by rw [← tickTimer_eq]; rfl
  belt := s.belt.tick_eq
  line := s.line.tick_eq _ _
  rest := ⟨rfl, rfl, rfl, rfl, rfl, rfl, rfl⟩

theorem OneMicrosecond.withPending (h : OneMicrosecond s t) (none : t.pending = []) :
    OneMicrosecond s { t with pending := [] } := by
  rw [← none]
  exact h

theorem step_idle (h : s.pending = []) : step s = .next (idle s) := by
  unfold step
  rw [h]

/-- Settles O2: what the passing of one µs does to each block, and what the step does with what it finds due. -/
theorem stepOnAnEmptyQueue : Obligations.StepOnAnEmptyQueue := by
  unfold Obligations.StepOnAnEmptyQueue
  refine ⟨ticked_oneMicrosecond, fun s none => ⟨fun c one => ?taken, fun no quiet => ?quiet, fun c no one => ?due⟩⟩
  case taken => rw [step_idle none, idle, one]; rfl
  case quiet =>
    refine ⟨{ s.ticked with pending := [] }, ?_, (ticked_oneMicrosecond s).withPending none⟩
    rw [step_idle none, idle, no, passTime, quiet]
    rfl
  case due => rw [step_idle none, idle, no, passTime, one]; rfl

/-! ### The state after reset -/

/-- Settles O10, by looking at each block's value after reset. -/
theorem resetHasTheInvariants : Obligations.ResetHasTheInvariants := by
  unfold Obligations.ResetHasTheInvariants
  refine ⟨⟨?running, ?empty, ?held, ?sweep⟩, fun p => ?port, ⟨fun _ => rfl, by decide⟩, rfl, ?outcomes, ?room⟩
  case running => decide
  case empty => exact fun no => absurd rfl no
  case held => exact fun _ => rfl
  case sweep => exact fun _ => rfl
  case port => cases p <;> exact ⟨by decide, fun _ => ⟨rfl, rfl, rfl⟩, by decide, by decide⟩
  case outcomes => exact (outcomesMid_nil_iff _).mp (OutcomesMid.coldStart .opened State.reset)
  case room => exact ⟨by decide, by decide, by decide, by decide⟩

/-! ### The clearance -/

/-- Settles O17, by the division with remainder that rounds the travel of the stroke up. -/
theorem clearanceCoversTheStroke : Obligations.ClearanceCoversTheStroke := by
  unfold Obligations.ClearanceCoversTheStroke clearance
  refine ⟨fun t w m => ?_, fun t m => by simp, fun t w m time speed margin => ?_, fun s => ⟨rfl, rfl, fun low high => ?_⟩⟩
  · generalize t * w = travel
    omega
  · have travel : t * w ≤ 100000 * 255 := Nat.mul_le_mul time speed
    omega
  · unfold Geometry.shortJog
    omega

/-! ### The port's own answers -/

/-- The owning rule of a request kind. -/
def ruleOf (p : Port) : RequestKind → Rule
  | .loadProfile => loadProfileRule
  | .loadSet => loadSetRule
  | .amendSet => amendSetRule
  | .cancelSet => cancelSetRule
  | .releaseSet => releaseSetRule
  | .querySet => querySetRule
  | .takeCompletion => takeCompletionRule
  | .takeReprint => takeReprintRule
  | .loadGeometry => loadGeometryRule
  | .start => startRule
  | .stop => stopRule
  | .purge => purgeRule
  | .resetLine => resetLineRule
  | .clearCapture => clearCaptureRule
  | .clearTally => clearTallyRule
  | .setReady => setReadyRule
  | .setNotReady => setNotReadyRule
  | .accept => acceptRule
  | .refuse => refuseRule
  | .readStatus => readStatusRule p
  | .readTally => readTallyRule
  | .readCapture => readCaptureRule
  | .clearCondition => clearConditionRule p

theorem requestKindOn_code {p : Port} {k : RequestKind} (allowed : k.allowedOn p = true) :
    requestKindOn p k.code = some k := by
  revert allowed
  cases p <;> cases k <;> decide

/-- The command by which a port takes a kind of its own lets the owning rule decide. -/
theorem exec_takeCommand {p : Port} {k : RequestKind} (allowed : k.allowedOn p = true) (s : State) :
    exec (takeCommand p k) s = .next (takeRequest p k (ruleOf p k) s) := by
  cases p <;> cases k <;> cases allowed <;> rfl

theorem Waits.takeable {p : Port} {r : Request} (w : Waits p r s) : s.takeable p = some r := by
  unfold State.takeable
  rw [w.sent]
  exact w.head

theorem Waits.overrun {p : Port} {k : RequestKind} {body : List Byte}
    (w : Waits p { kind := k.code, body := body, overrun := true } s) (allowed : k.allowedOn p = true) (rule : Rule) :
    takeRequest p k rule s = answered p k.code .overrun [] s := by
  unfold takeRequest decideRequest
  rw [w.takeable]
  dsimp only
  rw [if_pos (requestKindOn_code allowed), if_pos rfl]
  exact w.answer_begun _ _

theorem Waits.undefined {p : Port} {r : Request} (w : Waits p r s) (none : requestKindOn p r.kind = none) :
    takeUndefined p s = answered p r.kind (if r.overrun then .overrun else .notAllowed) [] s := by
  unfold takeUndefined
  rw [w.takeable]
  dsimp only
  rw [none]
  exact w.answer_begun _ _

theorem exec_undefinedRequestKind (p : Port) (s : State) :
    exec (.undefinedRequestKind p) s = .next (takeUndefined p s) := rfl

/-- Settles O18: none of the port's own answers comes to a rule. -/
theorem portAnswersBeforeTheRule : Obligations.PortAnswersBeforeTheRule := by
  unfold Obligations.PortAnswersBeforeTheRule
  refine fun p s => ⟨fun k body allowed => ⟨fun marked => ?overrun, fun waits sweep other => ?busy⟩, fun r waits none => ?none⟩
  case overrun => rw [exec_takeCommand allowed, marked.overrun allowed]
  case busy => rw [exec_takeCommand allowed, waits.busy (requestKindOn_code allowed) (by simpa using other) sweep]
  case none => rw [exec_undefinedRequestKind, waits.undefined none]

/-! ### What a rule refuses it leaves alone -/

/-- A result that a request may carry without having changed nothing. -/
def Result.mayChange (r : Result) : Prop := r = .done ∨ r = .doneClamped ∨ r = .none

/-- The rule leaves the state alone, or answers DONE, DONE_CLAMPED or NONE. -/
def Refuses (rule : Rule) : Prop := ∀ body v, (rule body v).1 = v ∨ (rule body v).2.result.mayChange

theorem Refuses.withEmptyBody {rule : State → State × Reply}
    (h : ∀ v, (rule v).1 = v ∨ (rule v).2.result.mayChange) : Refuses (withEmptyBody rule) := by
  intro body v
  unfold Machine.withEmptyBody
  split
  · exact h v
  · exact .inl rfl

theorem Refuses.withSetNumber {rule : Nat → State → State × Reply}
    (h : ∀ n v, (rule n v).1 = v ∨ (rule n v).2.result.mayChange) : Refuses (withSetNumber rule) := by
  intro body v
  unfold Machine.withSetNumber
  split
  · exact h _ v
  · exact .inl rfl

theorem clampedReply_mayChange (codes : List Nat) : (clampedReply codes).result.mayChange := by
  unfold clampedReply
  split
  · exact .inl rfl
  · exact .inr (.inl rfl)

theorem setReply_mayChange (a b : Bool) : (setReply a b).result.mayChange := by
  unfold setReply
  split
  · exact .inr (.inl rfl)
  · exact .inl rfl

theorem loadProfileRule_refuses : Refuses loadProfileRule := by
  intro body v
  unfold loadProfileRule
  split
  · exact .inl rfl
  · split
    · exact .inl rfl
    · split
      · exact .inl rfl
      · exact .inr (clampedReply_mayChange _)

theorem loadSetRule_refuses : Refuses loadSetRule := by
  intro body v
  unfold loadSetRule
  split
  · exact .inl rfl
  · split
    · exact .inl rfl
    · split
      · exact .inl rfl
      · split
        · exact .inl rfl
        · split
          · exact .inl rfl
          · exact .inr (setReply_mayChange _ _)

theorem amendSetRule_refuses : Refuses amendSetRule := by
  intro body v
  have amends : ∀ r raw a, (amendRecord r raw a v).1 = v ∨ (amendRecord r raw a v).2.result.mayChange := by
    intro r raw a
    unfold amendRecord
    split
    · exact .inl rfl
    · dsimp only
      split
      · exact .inl rfl
      · exact .inr (setReply_mayChange _ _)
  unfold amendSetRule
  split
  · exact .inl rfl
  · split
    · exact .inl rfl
    · split
      · exact .inl rfl
      · split
        · exact .inl rfl
        · exact amends _ _ _

theorem cancelSetRule_refuses : Refuses cancelSetRule := by
  refine .withSetNumber fun n v => ?_
  split
  · exact .inl rfl
  · exact .inr (.inl rfl)
  · split <;> exact .inl rfl

theorem releaseSetRule_refuses : Refuses releaseSetRule := by
  refine .withSetNumber fun n v => ?_
  split
  · exact .inl rfl
  · split
    · exact .inl rfl
    · split
      · exact .inl rfl
      · split
        · exact .inr (.inl rfl)
        · split
          · exact .inr (.inl rfl)
          · exact .inl rfl

theorem querySetRule_refuses : Refuses querySetRule := by
  refine .withSetNumber fun n v => ?_
  split <;> exact .inl rfl

theorem takeCompletionRule_refuses : Refuses takeCompletionRule := by
  refine .withEmptyBody fun v => .inr ?_
  dsimp only
  split
  · exact .inr (.inr rfl)
  · split
    · exact .inr (.inr rfl)
    · exact .inl rfl

theorem takeReprintRule_refuses : Refuses takeReprintRule := by
  refine .withEmptyBody fun v => .inr ?_
  dsimp only
  split
  · exact .inr (.inr rfl)
  · split
    · exact .inr (.inr rfl)
    · exact .inl rfl

theorem loadGeometryRule_refuses : Refuses loadGeometryRule := by
  intro body v
  unfold loadGeometryRule
  split
  · exact .inl rfl
  · split
    · exact .inl rfl
    · dsimp only
      split
      · exact .inl rfl
      · exact .inr (clampedReply_mayChange _)

theorem startRule_refuses : Refuses startRule := by
  refine .withEmptyBody fun v => ?_
  split
  · exact .inl rfl
  · split
    · exact .inl rfl
    · split
      · exact .inl rfl
      · exact .inr (.inl rfl)

theorem stopRule_refuses : Refuses stopRule := by
  refine .withEmptyBody fun v => ?_
  split
  · exact .inr (.inl rfl)
  · exact .inl rfl

theorem purgeRule_refuses : Refuses purgeRule := by
  refine .withEmptyBody fun v => ?_
  split
  · exact .inl rfl
  · split
    · exact .inl rfl
    · split
      · exact .inl rfl
      · exact .inr (.inl rfl)

theorem setReadyRule_refuses : Refuses setReadyRule := by
  refine .withEmptyBody fun v => .inr ?_
  split <;> exact .inl rfl

theorem acceptRule_refuses : Refuses acceptRule := by
  refine .withSetNumber fun n v => ?_
  split
  · exact .inr (.inl rfl)
  · exact .inl rfl

theorem refuseRule_refuses : Refuses refuseRule := by
  intro body v
  unfold refuseRule
  split
  · exact .inl rfl
  · split
    · exact .inr (.inl rfl)
    · exact .inl rfl

theorem clearConditionRule_refuses (p : Port) : Refuses (clearConditionRule p) := by
  intro body v
  unfold clearConditionRule
  split
  · exact .inl rfl
  · split
    · exact .inl rfl
    · exact .inr (.inl rfl)

theorem ruleOf_refuses (p : Port) (k : RequestKind) : Refuses (ruleOf p k) := by
  cases k with
  | loadProfile => exact loadProfileRule_refuses
  | loadSet => exact loadSetRule_refuses
  | amendSet => exact amendSetRule_refuses
  | cancelSet => exact cancelSetRule_refuses
  | releaseSet => exact releaseSetRule_refuses
  | querySet => exact querySetRule_refuses
  | takeCompletion => exact takeCompletionRule_refuses
  | takeReprint => exact takeReprintRule_refuses
  | loadGeometry => exact loadGeometryRule_refuses
  | start => exact startRule_refuses
  | stop => exact stopRule_refuses
  | purge => exact purgeRule_refuses
  | setReady => exact setReadyRule_refuses
  | accept => exact acceptRule_refuses
  | refuse => exact refuseRule_refuses
  | clearCondition => exact clearConditionRule_refuses p
  | _ => exact .withEmptyBody fun _ => .inr (.inl rfl)

/-- A rule decides by moves of its own command, and sends nothing itself. -/
theorem ruleOf_moves {p : Port} {k : RequestKind} (open_ : u.line.sweep = false) (body : List Byte) :
    Moves (.rule (takeCommand p k)) false u (ruleOf p k body u).1 := by
  have z : Moves (.rule (takeCommand p k)) false u u := .here u
  cases k with
  | loadProfile => exact z.loadProfileRule rfl rfl body
  | loadSet => exact z.loadSetRule rfl body
  | amendSet => exact z.amendSetRule rfl body
  | cancelSet => exact z.cancelSetRule body
  | releaseSet => exact z.releaseSetRule body
  | querySet => exact z.querySetRule body
  | takeCompletion => exact z.takeCompletionRule rfl body
  | takeReprint => exact z.takeReprintRule rfl body
  | loadGeometry => exact z.loadGeometryRule rfl body
  | start => exact z.startRule rfl rfl open_ body
  | stop => exact z.stopRule open_ body
  | purge => exact z.purgeRule rfl rfl open_ body
  | resetLine => exact z.resetLineRule rfl body
  | clearCapture => exact z.clearCaptureRule rfl body
  | clearTally => exact z.clearTallyRule body
  | setReady => exact z.setReadyRule rfl body
  | setNotReady => exact z.setNotReadyRule rfl body
  | accept => exact z.acceptRule rfl body
  | refuse => exact z.refuseRule rfl body
  | readStatus => exact z.readStatusRule p body
  | readTally => exact z.readTallyRule body
  | readCapture => exact z.readCaptureRule body
  | clearCondition => exact z.clearConditionRule p body

theorem takeCommand_ne_powerUp (p : Port) (k : RequestKind) (a b : Bool) : takeCommand p k ≠ .powerUp a b := by
  cases k <;> nofun

/-- Every request that its owning rule decides is answered. -/
theorem Asks.answeredBy {p : Port} {k : RequestKind} {body : List Byte} (h : Asks p k body s) :
    Replied p k (ruleOf p k body (popRequest p s).begin).2.result (ruleOf p k body (popRequest p s).begin).2.data s
      (takeRequest p k (ruleOf p k) s) := by
  rw [h.taken]
  have moves : Moves (.rule (takeCommand p k)) false (popRequest p s).begin (ruleOf p k body (popRequest p s).begin).1 :=
    ruleOf_moves (u := (popRequest p s).begin) h.noSweep body
  exact answer_replied _ h.waits fun q => moves.quiet_ports rfl
    (fun a b same => takeCommand_ne_powerUp p k a b (Option.some.inj same)) q

/-- A request whose rule leaves the state alone gets its reply, and nothing else changes. -/
theorem Asks.unchanged {p : Port} {k : RequestKind} {body : List Byte} {rule : Rule} {r : Reply} (h : Asks p k body s)
    (e : rule body (popRequest p s).begin = ((popRequest p s).begin, r)) :
    takeRequest p k rule s = answered p k.code r.result r.data s :=
  h.exact e rfl rfl rfl rfl

/-- Settles O19: every rule leaves the state alone unless it answers DONE, DONE_CLAMPED or NONE. -/
theorem refusedRequestChangesNothing : Obligations.RefusedRequestChangesNothing := by
  unfold Obligations.RefusedRequestChangesNothing
  intro p k body s asks
  refine ⟨_, _, _, exec_takeCommand asks.allowed s, asks.answeredBy, ?_⟩
  rcases ruleOf_refuses p k body (popRequest p s).begin with same | done | clamped | none
  · exact .inr (.inr (.inr (asks.unchanged (Prod.ext same rfl))))
  · exact .inl done
  · exact .inr (.inl clamped)
  · exact .inr (.inr (.inl none))

/-! ### The requests that read -/

/-- The head of a queue is no part of the status. -/
theorem statusBytes_begun (v : State) (p : Port) (s : State) :
    statusBytes v (popRequest p s).begin p = statusBytes v s p := by
  cases p <;> rfl

theorem statusView_sweeping (h : s.line.sweep = true) :
    statusView s = (Config.sweepView s.choices).setLine
      { (Config.sweepView s.choices).line with record := s.line.record } := if_pos h

theorem statusView_open (h : s.line.sweep = false) : statusView s = s := if_neg (by simp [h])

theorem readStatusRule_open (p : Port) (h : s.line.sweep = false) :
    readStatusRule p [] s = (s, { result := .done, data := statusBytes s s p }) := by
  simp only [readStatusRule, withEmptyBody, h, statusView_open h, Bool.false_eq_true, if_false]

theorem readStatusRule_sweeping (p : Port) (h : s.line.sweep = true) :
    readStatusRule p [] s = (s.drawn, { result := .done, data := statusBytes (statusView s) s p }) := by
  simp only [readStatusRule, withEmptyBody, h, if_true]

theorem Waits.readStatus_sweeping {p : Port}
    (w : Waits p { kind := RequestKind.readStatus.code, body := [], overrun := false } s) (sweep : s.line.sweep = true) :
    takeRequest p .readStatus (readStatusRule p) s =
      { answered p RequestKind.readStatus.code .done (statusBytes (statusView s) s p) s with
        choices := s.choices + 1 } := by
  have begun : (popRequest p s).begin.line.sweep = true := sweep
  have view : statusView (popRequest p s).begin = statusView s := by
    rw [statusView_sweeping begun, statusView_sweeping sweep]
    rfl
  have popped : (popRequest p s).begin.drawn.port p = { s.port p with queue := (s.port p).queue.tail } :=
    State.setPort_port_self s p _
  have up : ((popRequest p s).begin.drawn.port p).link = .up := by rw [popped]; exact w.up
  have top : topBytes (popRequest p s).begin.drawn p = topBytes s p := topBytes_congr (by rw [popped]) rfl rfl
  have kind : requestKindOn p RequestKind.readStatus.code = some .readStatus := requestKindOn_code rfl
  rw [takeRequest_taken _ w.takeable kind rfl (.inr rfl)]
  dsimp only
  rw [readStatusRule_sweeping p begun, view, statusBytes_begun, answer_idle p _ _ rfl up, popped, replyFrame, top]
  cases p <;> rfl

theorem querySetRule_unknown {body : List Byte} {n : Nat} (parsed : parseSetNumber body = some n)
    (h : s.findSet n = none) : querySetRule body s = (s, .plain .noSuchSet) := by
  simp only [querySetRule, withSetNumber, parsed, h]

theorem querySetRule_known {body : List Byte} {n : Nat} {r : SetRec} (parsed : parseSetNumber body = some n)
    (h : s.findSet n = some r) : querySetRule body s = (s, { result := .done, data := recordBytes r }) := by
  simp only [querySetRule, withSetNumber, parsed, h]

theorem exec_readStatus (p : Port) (s : State) :
    exec (.readStatus p) s = .next (takeRequest p .readStatus (readStatusRule p) s) := rfl

theorem exec_readTally (p : Port) (s : State) :
    exec (.readTally p) s = .next (takeRequest p .readTally readTallyRule s) := rfl

theorem exec_readCapture (p : Port) (s : State) :
    exec (.readCapture p) s = .next (takeRequest p .readCapture readCaptureRule s) := rfl

theorem exec_querySet (s : State) : exec .querySet s = .next (takeRequest .job .querySet querySetRule s) := rfl

/-- Settles O20: each rule answers its data and leaves the state alone, or draws the free value of the sweep. -/
theorem readingRequestsReport : Obligations.ReadingRequestsReport := by
  unfold Obligations.ReadingRequestsReport
  refine fun p body n s => ⟨fun asks => ?status, fun waits sweep => ?sweep, fun asks => ?tally, fun asks => ?capture,
    fun asks parsed none => ?unknown, fun r asks parsed found => ?known⟩
  case status =>
    rw [exec_readStatus, asks.unchanged (readStatusRule_open p asks.noSweep)]
    dsimp only
    rw [statusBytes_begun]
    rfl
  case sweep => rw [exec_readStatus, waits.readStatus_sweeping sweep]
  case tally => rw [exec_readTally, asks.unchanged rfl]; rfl
  case capture => rw [exec_readCapture, asks.unchanged rfl]; rfl
  case unknown => rw [exec_querySet, asks.refused (querySetRule_unknown parsed none)]
  case known => rw [exec_querySet, asks.unchanged (querySetRule_known parsed found)]

/-! ### The requests that load or clear -/

theorem loadRefusal_none (idle : s.stationBusy = false) (still : s.line.state ≠ .running)
    (out : ∀ r ∈ s.table.records, r.state.inMachine = false) : loadRefusal s = none := by
  have empty : setsInMachine s = false := by
    unfold setsInMachine
    simpa using out
  unfold loadRefusal
  rw [if_neg (by simp [idle]), if_neg (by simp [still, empty])]

theorem clampedReply_result (codes : List Nat) :
    (clampedReply codes).result = if codes = [] then .done else .doneClamped := by
  cases codes <;> rfl

theorem clampedReply_data (codes : List Nat) :
    (clampedReply codes).data = if codes = [] then [] else codeList codes := by
  cases codes <;> rfl

theorem loadProfileRule_installs {body : List Byte} {x : Profile} {codes : List Nat} (free : loadRefusal s = none)
    (parsed : parseProfile body = some (x, codes)) (inside : x.mergeOffset < x.formLength) :
    loadProfileRule body s = (installProfile x s, clampedReply codes) := by
  simp only [loadProfileRule, free, parsed, if_neg (Nat.not_le.mpr inside)]

theorem loadGeometryRule_installs {body : List Byte} {es : List GeometryEntry} (free : loadRefusal s = none)
    (parsed : parseGeometry body = some es) (ordered : geometryDisorder (mergeGeometry s.line.geometry es) = none) :
    loadGeometryRule body s =
      (s.setLine { s.line with geometry := mergeGeometry s.line.geometry es, geometryLoaded := true },
        clampedReply (clampedGeometry es)) := by
  simp only [loadGeometryRule, free, parsed, ordered]

theorem exec_loadProfile (s : State) : exec .loadProfile s = .next (takeRequest .job .loadProfile loadProfileRule s) := rfl

theorem exec_loadGeometry (s : State) :
    exec .loadGeometry s = .next (takeRequest .line .loadGeometry loadGeometryRule s) := rfl

/-- Settles O21: with nothing in the machine a body that reads is installed, and the answer asks for nothing more. -/
theorem loadingRequestsInstall : Obligations.LoadingRequestsInstall := by
  unfold Obligations.LoadingRequestsInstall
  refine fun body s idle still out => ⟨fun x codes asks parsed inside => ?profile, fun es asks parsed ordered => ?geometry⟩
  case profile =>
    have free : loadRefusal (popRequest .job s).begin = none := loadRefusal_none idle still out
    rw [exec_loadProfile, asks.exact (loadProfileRule_installs free parsed inside) rfl rfl rfl rfl, clampedReply_result,
      clampedReply_data]
    rfl
  case geometry =>
    have free : loadRefusal (popRequest .line s).begin = none := loadRefusal_none idle still out
    rw [exec_loadGeometry, asks.exact (loadGeometryRule_installs free parsed ordered) rfl rfl rfl rfl,
      clampedReply_result, clampedReply_data]
    rfl

/-- Settles O31: neither rule touches more than the record it clears. -/
theorem clearingRequestsClear : Obligations.ClearingRequestsClear := by
  unfold Obligations.ClearingRequestsClear
  refine fun s => ⟨fun asks => ?capture, fun asks => ?tally⟩
  case capture =>
    have taken := asks.exact (rule := clearCaptureRule) rfl rfl rfl rfl rfl
    exact congrArg Host.Outcome.next taken
  case tally =>
    have taken := asks.exact (rule := clearTallyRule) rfl rfl rfl rfl rfl
    exact congrArg Host.Outcome.next taken

/-- Settles O22: what LOAD SET checks is given, so its rule appends the record and answers. -/
theorem loadSetCreatesARecord : Obligations.LoadSetCreatesARecord := by
  unfold Obligations.LoadSetCreatesARecord
  intro body d s asks room parsed freshNumber freshTag valid
  have rule : loadSetRule body (popRequest .job s).begin =
      ((popRequest .job s).begin.setTable { s.table with records := s.table.records ++ [d.record] },
        setReply (decide (7 < d.priority)) ((d.steps.filterMap id).any Step.clamps)) := by
    have space : ¬ tableCapacity ≤ (popRequest .job s).begin.table.records.length := Nat.not_le.mpr room
    have number : (popRequest .job s).begin.findSet d.number = none := freshNumber
    have tag : (popRequest .job s).begin.findTag d.record.tag = none := freshTag
    simp only [loadSetRule, if_neg space, parsed, number, tag, valid, Option.isSome_none, Bool.false_eq_true, if_false]
    rfl
  have result : (setReply (decide (7 < d.priority)) ((d.steps.filterMap id).any Step.clamps)).result = .done ∨
      (setReply (decide (7 < d.priority)) ((d.steps.filterMap id).any Step.clamps)).result = .doneClamped := by
    unfold setReply
    split
    · exact .inr rfl
    · exact .inl rfl
  exact ⟨_, _, result, rfl, rfl, congrArg Host.Outcome.next (asks.exact rule rfl rfl rfl rfl)⟩

end Sys2Proof.Machine
end

section
/-! PROOFS. The end of an event: when nothing is left to settle, and which pending conditions no shared operation touches. -/

namespace Sys2Proof.Machine

variable {s t u : State}

/-! ### Rules that ask for nothing but notices -/

/-- Nothing was asked of the end of the event but notices. -/
def OnlyRaised (s t : State) : Prop := t.ev = { s.ev with raised := t.ev.raised }

theorem OnlyRaised.of_ev (h : t.ev = s.ev) : OnlyRaised s t := by
  unfold OnlyRaised
  rw [h]

theorem OnlyRaised.refl (s : State) : OnlyRaised s s := rfl

theorem OnlyRaised.trans (h : OnlyRaised s t) (k : OnlyRaised t u) : OnlyRaised s u := by
  unfold OnlyRaised at *
  rw [k, h]

/-- What leaves the event under way alone asks for nothing. -/
theorem OnlyRaised.of_same {l : List Part} (h : SameExcept l s t) (no : Part.ev ∉ l) : OnlyRaised s t :=
  .of_ev (h .ev no)

theorem raiseCond_onlyRaised (k : Cond) (x : CondParam) (s : State) : OnlyRaised s (raiseCond k x s) := by
  unfold raiseCond
  dsimp only
  split <;> rfl

theorem setHold_onlyRaised (k : HoldCause) (b : Bool) (s : State) : OnlyRaised s (setHold k b s) := by
  have put : OnlyRaised s (s.setLine { s.line with holds := s.line.holds.put k b }) := rfl
  unfold setHold
  split
  · exact .refl s
  · dsimp only
    split
    · exact put.trans (raiseCond_onlyRaised _ _ _)
    · exact put
    · exact put

theorem lineFault_onlyRaised (k : LineCause) (n : Option Nat) (s : State) : OnlyRaised s (lineFault k n s) := by
  have put : ∀ x, OnlyRaised s (s.setLine x) := fun _ => rfl
  unfold lineFault
  split
  · exact put _
  · exact (put _).trans (raiseCond_onlyRaised _ _ _)
  · exact (put _).trans (raiseCond_onlyRaised _ _ _)

theorem evalAccBlocked_onlyRaised (s : State) : OnlyRaised s (evalAccBlocked s) := setHold_onlyRaised _ _ _

theorem setObligation_onlyRaised (o : Obligation) (s : State) : OnlyRaised s (setObligation o s) :=
  (OnlyRaised.of_ev (t := s.setAcc { s.acc with obligation := o }) rfl).trans (setHold_onlyRaised _ _ _)

theorem beginHold_onlyRaised (n i : Nat) (s : State) : OnlyRaised s (beginHold n i s) :=
  (OnlyRaised.of_ev (s := s) (t := (putSetState n .held s).setAcc
    { (putSetState n .held s).acc with holdTimer := msTimer (i * 1000) }) rfl).trans (raiseCond_onlyRaised _ _ _)

theorem takeSteps_onlyRaised (fuel : Nat) : ∀ s, OnlyRaised s (takeSteps fuel s) := by
  have pass : ∀ n f v, OnlyRaised v (updateSet n f v) := fun _ _ _ => rfl
  induction fuel with
  | zero => exact .refl
  | succ fuel ih =>
    intro s
    unfold takeSteps
    split
    · exact .refl s
    · split
      · split
        · split
          · exact (pass _ _ s).trans (ih _)
          · exact beginHold_onlyRaised _ _ s
        · split
          · exact (pass _ _ s).trans (ih _)
          · exact pass _ _ s
        · exact .refl s
      · exact .refl s

theorem startHandOver_onlyRaised (r : SetRec) (s : State) : OnlyRaised s (startHandOver r s) :=
  (OnlyRaised.of_ev (s := s) (t := nameHanded r (startRelease (putSetState r.number .folding s))) rfl).trans
    (evalAccBlocked_onlyRaised _)

theorem examHandOver_onlyRaised (s : State) : OnlyRaised s (examHandOver s) := by
  unfold examHandOver
  split
  · split
    · exact startHandOver_onlyRaised _ s
    · exact .refl s
  · exact .refl s

theorem startDump_onlyRaised (s : State) : OnlyRaised s (startDump s) :=
  (OnlyRaised.of_ev (s := s) (t := s.setAcc
    { s.acc with state := .dumping, jogInterval := none, dumpTimeout := msTimer s.line.geometry.actuatorTimeout })
    rfl).trans (evalAccBlocked_onlyRaised _)

theorem examDump_onlyRaised (s : State) : OnlyRaised s (examDump s) := by
  unfold examDump
  split
  · exact startDump_onlyRaised s
  · exact .refl s

theorem examSquaring_onlyRaised (s : State) : OnlyRaised s (examSquaring s) :=
  .of_same (examSquaring_same s) (by decide)

theorem examObligation_onlyRaised (s : State) : OnlyRaised s (examObligation s) :=
  .of_same (examObligation_same s) (by decide)

theorem examStack_onlyRaised (s : State) : OnlyRaised s (examStack s) :=
  ((examDump_onlyRaised s).trans (examHandOver_onlyRaised _)).trans (examSquaring_onlyRaised _)

theorem goOn_onlyRaised (s : State) : OnlyRaised s (goOn s) :=
  ((takeSteps_onlyRaised 4 s).trans (examHandOver_onlyRaised _)).trans (examSquaring_onlyRaised _)

/-- Nothing is left to do at the end of the event but to send its notices. -/
structure Settled (s : State) : Prop where
  ended : s.ev.ended = []
  plan : s.ev.planWanted = false
  dump : s.ev.dumpExam = false
  await : s.ev.awaitExam = false

theorem Settled.begin (s : State) : Settled s.begin := ⟨rfl, rfl, rfl, rfl⟩

theorem Settled.of_onlyRaised (h : Settled s) (k : OnlyRaised s t) : Settled t := by
  obtain ⟨ended, plan, dump, await⟩ := h
  exact ⟨by rw [k]; exact ended, by rw [k]; exact plan, by rw [k]; exact dump, by rw [k]; exact await⟩

theorem Settled.settle_eq (h : Settled s) : settle s = s := settle_idle h.ended h.plan h.dump h.await

theorem OnlyRaised.settled (h : OnlyRaised s.begin t) : Settled t := (Settled.begin s).of_onlyRaised h

/-- An event whose rule asks for nothing but notices leaves what its rule leaves, the links and the event aside. -/
theorem event_of_settled {rule : State → State} (h : Settled (rule s.begin)) :
    SameExcept [.links, .ev] (rule s.begin) (event rule s) := by
  have same := event_same rule s
  rw [h.settle_eq] at same
  exact same

theorem event_pending (rule : State → State) (s : State) (c : Cond) :
    (event rule s).isPending c = (settle (rule s.begin)).isPending c := flushNotices_pending _ c

theorem quiet_pending (rule : State → State) (s : State) (c : Cond) :
    (quiet rule s).isPending c = (rule s.begin).isPending c := flushNotices_pending _ c

theorem produce_conds (p : Port) (f : TxFrame) (s : State) (q : Port) :
    ((produce p f s).port q).conds = (s.port q).conds := by
  unfold produce
  split
  · rfl
  · by_cases same : q = p
    · subst same
      rw [State.setPort_port_self]
    · rw [State.setPort_port_of_ne same]

theorem answer_pending (p : Port) (k : Byte) (r : Reply) (s : State) (c : Cond) :
    (answer p k r s).isPending c = (settle s).isPending c := by
  have sent : (produce p (replyFrame (settle s) p k r) (settle s)).isPending c = (settle s).isPending c := by
    unfold State.isPending
    rw [produce_conds]
  exact (flushNotices_pending _ c).trans sent

/-! ### Conditions of one source -/

/-- The conditions that operations shared by many commands raise. -/
def Cond.shared : Cond → Bool
  | .setHeld | .reprintReady | .completionReady | .lineFault | .holdChanged | .unexpectedPages => true
  | _ => false

/-- The other conditions are pending in t exactly when they are in s. -/
def KeepsPending (s t : State) : Prop := ∀ c : Cond, c.shared = false → t.isPending c = s.isPending c

namespace KeepsPending

theorem refl (s : State) : KeepsPending s s := fun _ _ => rfl

theorem trans (h : KeepsPending s t) (k : KeepsPending t u) : KeepsPending s u :=
  fun c other => (k c other).trans (h c other)

theorem of_links (h : t.links = s.links) : KeepsPending s t := fun c _ => isPending_of_links h c

theorem of_same {l : List Part} (h : SameExcept l s t) (no : Part.links ∉ l) : KeepsPending s t :=
  .of_links (h .links no)

theorem foldl {α : Type} {f : State → α → State} (h : ∀ v x, KeepsPending v (f v x)) (xs : List α) :
    ∀ v, KeepsPending v (xs.foldl f v) := by
  induction xs with
  | nil => exact .refl
  | cons x xs ih => exact fun v => (h v x).trans (ih _)

end KeepsPending

theorem raiseCond_keepsPending {k : Cond} (shared : k.shared = true) (x : CondParam) (s : State) :
    KeepsPending s (raiseCond k x s) := by
  intro c other
  rw [raiseCond_pending, decide_eq_false (by rintro rfl; rw [shared] at other; cases other), Bool.or_false]

theorem setHold_keepsPending (k : HoldCause) (b : Bool) (s : State) : KeepsPending s (setHold k b s) := by
  have put : KeepsPending s (s.setLine { s.line with holds := s.line.holds.put k b }) := .of_links rfl
  unfold setHold
  split
  · exact .refl s
  · dsimp only
    split
    · exact put.trans (raiseCond_keepsPending rfl _ _)
    · exact put
    · exact put

theorem lineFault_keepsPending (k : LineCause) (n : Option Nat) (s : State) : KeepsPending s (lineFault k n s) := by
  have put : ∀ x, KeepsPending s (s.setLine x) := fun _ => .of_links rfl
  unfold lineFault
  split
  · exact put _
  · exact (put _).trans (raiseCond_keepsPending rfl _ _)
  · exact (put _).trans (raiseCond_keepsPending rfl _ _)

theorem evalTrackFull_keepsPending (s : State) : KeepsPending s (evalTrackFull s) := by
  unfold evalTrackFull
  split
  · exact setHold_keepsPending _ _ s
  · split
    · exact setHold_keepsPending _ _ s
    · exact .refl s

theorem recordCause_keepsPending (n : Nat) (c : SetCause) (i : Option Nat) (s : State) :
    KeepsPending s (recordCause n c i s) := .of_same (recordCause_same n c i s) (by decide)

theorem recordCauseOpt_keepsPending (n : Option Nat) (c : SetCause) (s : State) :
    KeepsPending s (recordCauseOpt n c s) := by
  cases n with
  | none => exact .refl s
  | some n => exact recordCause_keepsPending n c none s

theorem testDivertedOpt_keepsPending (n : Option Nat) (s : State) : KeepsPending s (testDivertedOpt n s) :=
  .of_same (testDivertedOpt_same n s) (by decide)

/-! #### The gate plan -/

theorem rewriteSheet_keepsPending (id : Nat) (d : Disposition) (s : State) : KeepsPending s (rewriteSheet id d s) :=
  .of_same (rewriteSheet_same id d s) (by decide)

theorem withhold_keepsPending (a : Actuator) (d : Disposition) (s : State) : KeepsPending s (withhold a d s) := by
  cases a with
  | knife row => exact lineFault_keepsPending _ _ s
  | gate sheet _ => exact rewriteSheet_keepsPending _ _ s

theorem takeDue_keepsPending (f : Firing) (lateness : Int) (d : Disposition) (s : State) :
    KeepsPending s (takeDue f lateness d s).1 := by
  have counted : KeepsPending s (countLate lateness s) := by
    unfold countLate
    split <;> exact .of_links rfl
  unfold takeDue
  split
  · exact withhold_keepsPending _ _ s
  · cases a : f.actuator <;> exact counted.trans (.of_links rfl)

theorem askGuarded_keepsPending (a : Actuator) (s : State) : KeepsPending s (askGuarded a s) := by
  unfold askGuarded
  split <;> exact .of_links rfl

theorem takeMade_keepsPending (f : Firing) (lateness : Int) (d : Disposition) (s : State) :
    KeepsPending s (takeMade f lateness d s).1 := by
  have due := takeDue_keepsPending f lateness (withheldTo s d) s
  unfold takeMade
  dsimp only
  split
  · exact due.trans (askGuarded_keepsPending _ _)
  · exact due

theorem makeFiring_keepsPending (a : Actuator) (target : Pos) (running : Disposition) (s : State) :
    KeepsPending s (makeFiring a target running s).1 := by
  unfold makeFiring
  split
  · split
    · exact lineFault_keepsPending _ _ s
    · exact (lineFault_keepsPending _ _ s).trans (rewriteSheet_keepsPending _ _ _)
  · dsimp only
    split
    · exact .of_links rfl
    · exact takeMade_keepsPending _ _ _ s

theorem requestKnife_keepsPending (row : Pos) (s : State) : KeepsPending s (requestKnife row s) := by
  unfold requestKnife
  dsimp only
  split
  · exact .refl s
  · exact makeFiring_keepsPending _ _ _ s

theorem walkFiring_keepsPending (e : SheetEntry) (want running : Disposition) (s : State) :
    KeepsPending s (walkFiring e want running s).1 := by
  have reset : ∀ v, KeepsPending v (resetGate (gateTarget s e) .waste v) := fun _ => .of_links rfl
  unfold walkFiring
  dsimp only
  split
  · split
    · exact .refl s
    · split
      · exact .refl s
      · exact ((rewriteSheet_keepsPending _ _ s).trans (rewriteSheet_keepsPending _ _ _)).trans (reset _)
  · exact makeFiring_keepsPending _ _ _ s

theorem followSheet_keepsPending (p e : SheetEntry) (s : State) : KeepsPending s (followSheet p e s) := by
  unfold followSheet
  split
  · exact .refl s
  · exact rewriteSheet_keepsPending _ _ s

theorem walkWasted_keepsPending (p e : SheetEntry) (running : Disposition) (s : State) :
    KeepsPending s (walkWasted p e running s).1 := by
  cases running with
  | waste => exact .refl s
  | accumulate =>
    have made := walkFiring_keepsPending e .waste .accumulate s
    unfold walkWasted
    dsimp only
    split
    · exact made.trans (followSheet_keepsPending p e _)
    · exact made

theorem walkPair_keepsPending (p e : SheetEntry) (running : Disposition) (s : State) :
    KeepsPending s (walkPair p e running s).1 := by
  unfold walkPair
  dsimp only
  split
  · split
    · exact (rewriteSheet_keepsPending _ _ s).trans (.of_links rfl)
    · exact (rewriteSheet_keepsPending _ _ s).trans (walkWasted_keepsPending p e running _)
  · exact (rewriteSheet_keepsPending _ _ s).trans (walkWasted_keepsPending p e running _)

theorem walkEntry_keepsPending (prev : Option Nat) (id : Nat) (running : Disposition) (s : State) :
    KeepsPending s (walkEntry prev id running s).1 := by
  unfold walkEntry
  split
  · exact .refl s
  · rename_i e _
    have alone : KeepsPending s (if e.disposition = running then (s, running)
        else ((walkFiring e e.disposition running s).1, (walkFiring e e.disposition running s).2.1)).1 := by
      split
      · exact .refl s
      · exact walkFiring_keepsPending e _ running s
    dsimp only
    split
    · exact alone
    · split
      · exact walkPair_keepsPending _ e running s
      · exact alone

theorem walk_keepsPending (ids : List Nat) : ∀ (prev : Option Nat) (running : Disposition) (s : State),
    KeepsPending s (walk prev ids running s) := by
  induction ids with
  | nil => exact fun _ _ s => .of_links rfl
  | cons id ids ih => exact fun prev running s => (walkEntry_keepsPending prev id running s).trans (ih _ _ _)

theorem rederive_keepsPending (s : State) : KeepsPending s (rederive s) :=
  (KeepsPending.of_links (t := dropGates s.noneMade) rfl).trans (walk_keepsPending _ _ _ _)

theorem extendPlan_keepsPending (s : State) : KeepsPending s (extendPlan s) :=
  (KeepsPending.of_links (t := s.noneMade) rfl).trans (walk_keepsPending _ _ _ _)

theorem replanLoop_keepsPending (fuel : Nat) : ∀ s, KeepsPending s (replanLoop fuel s) := by
  induction fuel with
  | zero => exact .refl
  | succ fuel ih =>
    intro s
    have asked : KeepsPending s s.planAsked := .of_links rfl
    unfold replanLoop
    split
    · exact (asked.trans (rederive_keepsPending _)).trans (ih _)
    · exact .refl s

/-! #### The accumulator and the outcome queues -/

theorem beginHold_keepsPending (n i : Nat) (s : State) : KeepsPending s (beginHold n i s) :=
  (KeepsPending.of_links (s := s) (t := (putSetState n .held s).setAcc
    { (putSetState n .held s).acc with holdTimer := msTimer (i * 1000) }) rfl).trans (raiseCond_keepsPending rfl _ _)

theorem takeSteps_keepsPending (fuel : Nat) : ∀ s, KeepsPending s (takeSteps fuel s) := by
  have pass : ∀ n f v, KeepsPending v (updateSet n f v) := fun _ _ _ => .of_links rfl
  induction fuel with
  | zero => exact .refl
  | succ fuel ih =>
    intro s
    unfold takeSteps
    split
    · exact .refl s
    · split
      · split
        · split
          · exact (pass _ _ s).trans (ih _)
          · exact beginHold_keepsPending _ _ s
        · split
          · exact (pass _ _ s).trans (ih _)
          · exact pass _ _ s
        · exact .refl s
      · exact .refl s

theorem examHandOver_keepsPending (s : State) : KeepsPending s (examHandOver s) := by
  unfold examHandOver
  split
  · rename_i r _
    split
    · exact (KeepsPending.of_links (s := s) (t := nameHanded r (startRelease (putSetState r.number .folding s)))
        rfl).trans (setHold_keepsPending _ _ _)
    · exact .refl s
  · exact .refl s

theorem examDump_keepsPending (s : State) : KeepsPending s (examDump s) := by
  unfold examDump
  split
  · exact (KeepsPending.of_links (s := s) (t := s.setAcc
      { s.acc with state := .dumping, jogInterval := none, dumpTimeout := msTimer s.line.geometry.actuatorTimeout })
      rfl).trans (setHold_keepsPending _ _ _)
  · exact .refl s

theorem goOn_keepsPending (s : State) : KeepsPending s (goOn s) :=
  ((takeSteps_keepsPending 4 s).trans (examHandOver_keepsPending _)).trans
    (.of_same (examSquaring_same _) (by decide))

theorem examAsked_keepsPending (s : State) : KeepsPending s (examAsked s) := by
  have dump : ∀ v, KeepsPending v (examDumpIf v) := by
    intro v
    unfold examDumpIf
    split
    · exact examDump_keepsPending v
    · exact .refl v
  have await : KeepsPending s (endAwait s) := by
    unfold endAwait
    split
    · split
      · exact (KeepsPending.of_links (t := updateSet _ _ s) rfl).trans (goOn_keepsPending _)
      · exact .refl s
    · exact .refl s
  unfold examAsked
  split
  · exact await.trans (dump _)
  · exact dump s

theorem joinQueues_keepsPending (s : State) (n : Nat) : KeepsPending s (joinQueues s n) := by
  have completion : KeepsPending s (joinCompletion n s) := by
    unfold joinCompletion
    dsimp only
    split
    · exact (KeepsPending.of_links (s := s) (t := s.setTable _) rfl).trans (raiseCond_keepsPending rfl _ _)
    · exact .of_links rfl
  have reprint : ∀ v, KeepsPending v (joinReprintIf n v) := by
    intro v
    unfold joinReprintIf
    split
    · split
      · unfold joinReprint
        dsimp only
        split
        · exact (KeepsPending.of_links (s := v) (t := v.setTable _) rfl).trans (raiseCond_keepsPending rfl _ _)
        · exact .of_links rfl
      · exact .refl v
    · exact .refl v
  exact completion.trans (reprint _)

theorem flushEnded_keepsPending (s : State) : KeepsPending s (flushEnded s) :=
  (KeepsPending.of_links (t := s.setEv { s.ev with ended := [] }) rfl).trans
    (.foldl joinQueues_keepsPending _ _)

theorem settle_keepsPending (s : State) : KeepsPending s (settle s) :=
  ((replanLoop_keepsPending _ s).trans (examAsked_keepsPending _)).trans (flushEnded_keepsPending _)

theorem event_keepsPending_rule (rule : State → State) (s : State) : KeepsPending (rule s.begin) (event rule s) :=
  fun c other => (event_pending rule s c).trans (settle_keepsPending _ c other)

theorem event_keepsPending {rule : State → State} (h : ∀ v, KeepsPending v (rule v)) (s : State) :
    KeepsPending s (event rule s) :=
  (KeepsPending.of_links (t := s.begin) rfl).trans ((h _).trans (event_keepsPending_rule rule s))

end Sys2Proof.Machine
end

section
/-! PROOFS. The links (chapter 10): a frame received as it was sent, LINK UP, the frame timeout, the break, and CLEAR
CONDITION; and the mark code (section 3.2). -/

namespace Sys2Proof.Machine

variable {s t u : State}

/-! ### A frame received whole -/

/-- What follows the sync byte of a frame. -/
def frameTail (kind : Byte) (body : List Byte) : List Byte :=
  frameCore { kind := kind, body := body } ++ leBytes 2 (crc (frameCore { kind := kind, body := body })).toNat

theorem frameBytes_eq (kind : Byte) (body : List Byte) :
    frameBytes { kind := kind, body := body } = syncByte :: frameTail kind body := rfl

theorem lengthByte_toNat {body : List Byte} (short : body.length ≤ 119) :
    (byte (body.length + 1)).toNat = body.length + 1 := by
  unfold byte
  rw [BitVec.toNat_ofNat]
  omega

theorem checkFrame_cons (n : Byte) (rest : List Byte) : checkFrame (n :: rest) =
    if n.toNat = 0 ∨ longestLength < n.toNat then .bad
    else if rest.length < n.toNat + 2 then .going
    else if rest.drop n.toNat = leBytes 2 (crc (n :: rest.take n.toNat)).toNat then
      match rest.take n.toNat with
      | kind :: body => .good kind body
      | [] => .bad
    else .bad := rfl

theorem lengthByte_good {body : List Byte} (short : body.length ≤ 119) :
    ¬ ((byte (body.length + 1)).toNat = 0 ∨ longestLength < (byte (body.length + 1)).toNat) := by
  rw [lengthByte_toNat short]
  unfold longestLength
  omega

/-- A frame is not whole before its last byte is in. -/
theorem checkFrame_going {kind : Byte} {body : List Byte} (short : body.length ≤ 119) (before : List Byte) {later : List Byte}
    (split : before ++ later = frameTail kind body) (more : later ≠ []) : checkFrame before = .going := by
  cases before with
  | nil => rfl
  | cons n rest =>
    obtain ⟨rfl, tail⟩ : n = byte (body.length + 1) ∧
        rest ++ later = kind :: body ++ leBytes 2 (crc (frameCore { kind := kind, body := body })).toNat := by
      simpa [frameTail, frameCore] using split
    have fits : rest.length < body.length + 1 + 2 := by
      have lengths := congrArg List.length tail
      have some : 0 < later.length := List.length_pos_iff.mpr more
      simp [leBytes] at lengths
      omega
    rw [checkFrame_cons, if_neg (lengthByte_good short), if_pos (by rw [lengthByte_toNat short]; exact fits)]

/-- The whole of it is checked good, and carries its kind and body. -/
theorem checkFrame_frameTail {kind : Byte} {body : List Byte} (short : body.length ≤ 119) :
    checkFrame (frameTail kind body) = .good kind body := by
  have size : (kind :: body).length = body.length + 1 := rfl
  show checkFrame (byte (body.length + 1) :: (kind :: body ++ _)) = _
  rw [checkFrame_cons, if_neg (lengthByte_good short), lengthByte_toNat short, if_neg (by simp [leBytes]), ← size, List.drop_left, List.take_left]
  exact if_pos rfl

/-- Port p, its link UP, with a frame in progress of which these bytes are in. -/
def receiving (p : Port) (bytes : List Byte) (s : State) : State :=
  (s.setPort p { s.port p with rx := some { bytes := bytes, timer := frameTime } }).begin

theorem receiving_port (p : Port) (bytes : List Byte) (s : State) :
    (receiving p bytes s).port p = { s.port p with rx := some { bytes := bytes, timer := frameTime } } :=
  State.setPort_port_self s p _

@[simp] theorem State.setPort_setPort (s : State) (p : Port) (x y : PortState) :
    (s.setPort p x).setPort p y = s.setPort p y := by
  cases p <;> rfl

@[simp] theorem State.setPort_self (s : State) (p : Port) : s.setPort p (s.port p) = s := by
  cases p <;> rfl

theorem receiveByte_sync {p : Port} (up : (s.port p).link = .up) (hunt : (s.port p).rx = none) :
    quiet (receiveByte p { value := syncByte, stop := true }) s = receiving p [] s := by
  have rule : receiveByte p { value := syncByte, stop := true } s.begin = receiving p [] s := by
    unfold receiveByte
    rw [show s.begin.port p = s.port p from rfl, up, hunt]
    rfl
  rw [quiet_idle _ (by rw [rule]; rfl), rule]

theorem receiveByte_inFrame {p : Port} (up : (s.port p).link = .up) (bytes : List Byte) (b : RxByte) :
    receiveByte p b (receiving p bytes s).begin =
      frameByte p { bytes := bytes, timer := frameTime } b (receiving p bytes s) := by
  unfold receiveByte
  rw [show (receiving p bytes s).begin.port p = _ from receiving_port p bytes s]
  dsimp only
  rw [up]
  rfl

theorem receiveByte_going {p : Port} (up : (s.port p).link = .up) (bytes : List Byte) (b : Byte)
    (going : checkFrame (bytes ++ [b]) = .going) :
    quiet (receiveByte p { value := b, stop := true }) (receiving p bytes s) = receiving p (bytes ++ [b]) s := by
  have rule : receiveByte p { value := b, stop := true } (receiving p bytes s).begin = receiving p (bytes ++ [b]) s := by
    rw [receiveByte_inFrame up, frameByte, if_neg (by simp)]
    dsimp only
    rw [going, receiving_port]
    cases p <;> rfl
  rw [quiet_idle _ (by rw [rule]; rfl), rule]

theorem receiveByte_last {p : Port} (up : (s.port p).link = .up) (hunt : (s.port p).rx = none) {bytes : List Byte}
    {b kind : Byte} {body : List Byte} (whole : checkFrame (bytes ++ [b]) = .good kind body) :
    quiet (receiveByte p { value := b, stop := true }) (receiving p bytes s) = quiet (enqueue p kind body) s := by
  have back : (receiving p bytes s).setPort p { (receiving p bytes s).port p with rx := none } = s.begin := by
    rw [receiving_port, ← hunt]
    exact (State.setPort_setPort s.begin p _ _).trans (State.setPort_self s.begin p)
  unfold quiet
  rw [receiveByte_inFrame up, frameByte, if_neg (by simp)]
  dsimp only
  rw [whole]
  dsimp only
  rw [back]

theorem receiveBytes_cons (p : Port) (b : RxByte) (bytes : List RxByte) (s : State) :
    receiveBytes p (b :: bytes) s = receiveBytes p bytes (quiet (receiveByte p b) s) := rfl

theorem receiveBytes_nil (p : Port) (s : State) : receiveBytes p [] s = s := rfl

/-- A frame received whole enters the queue. -/
theorem receiveBytes_frame {p : Port} {kind : Byte} {body : List Byte} (short : body.length ≤ 119)
    (up : (s.port p).link = .up) (hunt : (s.port p).rx = none) :
    receiveBytes p ((frameBytes { kind := kind, body := body }).map fun b => { value := b, stop := true }) s =
      quiet (enqueue p kind body) s := by
  have rest : ∀ (later before : List Byte) (b : Byte), before ++ b :: later = frameTail kind body →
      receiveBytes p ((b :: later).map fun b => { value := b, stop := true }) (receiving p before s) =
        quiet (enqueue p kind body) s := by
    intro later
    induction later with
    | nil =>
      intro before b split
      have whole : checkFrame (before ++ [b]) = .good kind body := by rw [split, checkFrame_frameTail short]
      rw [List.map_cons, List.map_nil, receiveBytes_cons, receiveBytes_nil, receiveByte_last up hunt whole]
    | cons c later ih =>
      intro before b split
      have split' : (before ++ [b]) ++ c :: later = frameTail kind body := by rw [List.append_assoc]; exact split
      have going := checkFrame_going short _ split' (List.cons_ne_nil c later)
      rw [List.map_cons, receiveBytes_cons, receiveByte_going up before b going]
      exact ih (before ++ [b]) c split'
  rw [frameBytes_eq, List.map_cons, receiveBytes_cons, receiveByte_sync up hunt]
  exact rest _ [] (byte (body.length + 1)) rfl

theorem enqueue_room {p : Port} (kind : Byte) (body : List Byte) (room : (s.port p).queue.length < 4) :
    enqueue p kind body s =
      s.setPort p { s.port p with queue := (s.port p).queue ++ [{ kind := kind, body := body, overrun := false }] } :=
  if_pos room

theorem enqueue_full {p : Port} (kind : Byte) (body : List Byte) (full : 4 ≤ (s.port p).queue.length) :
    enqueue p kind body s = raiseCond (linkFaultOf p) .none (s.setPort p
      { s.port p with queue := (s.port p).queue.dropLast ++ [{ kind := kind, body := body, overrun := true }] }) :=
  if_neg (Nat.not_lt.mpr full)

theorem quiet_port (rule : State → State) (s : State) (q : Port) :
    OnlyNotices ((rule s.begin).port q) ((quiet rule s).port q) := flushNotices_port _ q

/-- Raising a condition changes nothing of a port but its pending conditions. -/
theorem raiseCond_port (k : Cond) (x : CondParam) (s : State) (q : Port) :
    (raiseCond k x s).port q = { s.port q with conds := ((raiseCond k x s).port q).conds } :=
  ((Moves.here (c := .inner) (g := false) s).raiseCond k x).quiet_ports rfl nofun q

theorem raiseCond_self_pending (k : Cond) (x : CondParam) (s : State) : (raiseCond k x s).isPending k = true := by
  rw [raiseCond_pending, decide_eq_true rfl, Bool.or_true]

/-- Settles O14: the bytes of a frame amount to one request, whose place in the queue is its port's own rule. -/
theorem frameReceivedIsTheFrameSent : Obligations.FrameReceivedIsTheFrameSent := by
  unfold Obligations.FrameReceivedIsTheFrameSent
  intro p kind body s short up hunt
  have run : exec (.goodFrame p ((frameBytes { kind := kind, body := body }).map fun b => { value := b, stop := true })) s =
      .next (quiet (enqueue p kind body) s) := congrArg Host.Outcome.next (receiveBytes_frame short up hunt)
  refine ⟨fun room => ?room, fun full => ?full⟩
  case room =>
    have queued := enqueue_room (s := s.begin) kind body room
    rw [run, quiet_idle _ (by rw [queued]; rfl), queued]
    rfl
  case full =>
    have replaced := enqueue_full (s := s.begin) kind body full
    have same := quiet_same (enqueue p kind body) s
    have port := quiet_port (enqueue p kind body) s p
    have pending := quiet_pending (enqueue p kind body) s (linkFaultOf p)
    rw [replaced] at same port pending
    rw [raiseCond_port, State.setPort_port_self] at port
    refine ⟨_, run, port.queue, port.rx.trans hunt, pending.trans (raiseCond_self_pending _ _ _), ?_⟩
    have begun : SameExcept [.links, .ev] s (s.begin.setPort p { s.begin.port p with
        queue := (s.begin.port p).queue.dropLast ++ [{ kind := kind, body := body, overrun := true }] }) :=
      (setEv_same _).comp (setPort_same p _)
    have raised : SameExcept [.links, .ev] s _ := begun.comp (raiseCond_same (linkFaultOf p) .none _)
    exact raised.comp same

/-! ### The link state

The two statements about a frame's timeout and a break say that no other port changes. They do not ask that a port hold
only its own conditions, which every reached state does (PortsStayInBounds); where another port holds a condition of the
port in question among its pending ones, the notice of that condition goes out there too. -/

/-- A port that is UP, has no request, and holds one pending condition, whosever it is. -/
def holding (c : Cond) : PortState :=
  { link := .up, queue := [], rx := none, tx := [], txSent := 0, txPhase := 0, conds := [{ cond := c, param := .none }] }

/-- The part after reset, its line port UP with a frame in progress, and its job port holding a condition of the line
port. -/
def straying (c : Cond) : State :=
  { State.reset with
    links :=
      { job := holding c
        line := { link := .up, queue := [], rx := some { bytes := [], timer := 0 }, tx := [], txSent := 0, txPhase := 0,
                  conds := [] }
        delivery := .poweredUp [] } }

theorem frameTimeout_strays :
    exec (.frameTimeout .line) (straying .lineLinkFault) = .next (quiet (frameOver .line) (straying .lineLinkFault)) ∧
      ((quiet (frameOver .line) (straying .lineLinkFault)).port .job).tx.length = 1 := ⟨rfl, by decide⟩

/-- Refutes O35: the line port's frame times out while the job port holds the line port's LINK_FAULT among its pending
conditions, and the notice of it is sent on the job port too. -/
theorem not_linkUpAndFrameTimeout : ¬ Obligations.LinkUpAndFrameTimeout := by
  unfold Obligations.LinkUpAndFrameTimeout
  intro holds
  obtain ⟨t, run, _, _, _, others, _⟩ := (holds .line (straying .lineLinkFault)).2 _ rfl
  obtain ⟨run', sent⟩ := frameTimeout_strays
  obtain rfl : quiet (frameOver .line) (straying .lineLinkFault) = t := Host.Outcome.next.inj (run'.symm.trans run)
  rw [others .job (by decide)] at sent
  exact absurd sent (by decide)

theorem linkBreak_strays :
    exec (.linkBreak .line) (straying .lineFault) = .next (quiet (breakLink .line) (straying .lineFault)) ∧
      ((quiet (breakLink .line) (straying .lineFault)).port .job).tx.length = 1 := ⟨rfl, by decide⟩

/-- Refutes O36: the line port breaks with the line FAULTED while the job port holds LINE_FAULT among its pending
conditions; LINE_FAULT becomes pending again on the line port, and its notice is sent on the job port. -/
theorem not_linkBreakEmptiesThePort : ¬ Obligations.LinkBreakEmptiesThePort := by
  unfold Obligations.LinkBreakEmptiesThePort
  intro holds
  obtain ⟨t, run, _, _, _, _, _, others, _⟩ := holds .line (straying .lineFault) rfl
  obtain ⟨run', sent⟩ := linkBreak_strays
  obtain rfl : quiet (breakLink .line) (straying .lineFault) = t := Host.Outcome.next.inj (run'.symm.trans run)
  rw [others .job (by decide)] at sent
  exact absurd sent (by decide)

/-! ### CLEAR CONDITION -/

/-- A request whose rule is known is answered so. -/
theorem Asks.run {p : Port} {k : RequestKind} {body : List Byte} {r : Reply} (h : Asks p k body s)
    (e : ruleOf p k body (popRequest p s).begin = (u, r)) :
    exec (takeCommand p k) s = .next (answer p k.code r u) ∧ Replied p k r.result r.data s (answer p k.code r u) := by
  have taken : takeRequest p k (ruleOf p k) s = answer p k.code r u := by rw [h.taken, e]
  have replied := h.answeredBy
  rw [e, taken] at replied
  exact ⟨by rw [exec_takeCommand h.allowed, taken], replied⟩

theorem foldl_removeCond_pending (cs : List Cond) (c : Cond) :
    ∀ s : State, (cs.foldl (fun s c => removeCond c s) s).isPending c = (s.isPending c && !decide (c ∈ cs)) := by
  induction cs with
  | nil => simp
  | cons d cs ih =>
    intro s
    rw [List.foldl_cons, ih, removeCond_pending]
    by_cases same : c = d <;> simp [same]

theorem foldl_raiseCond_pending (xs : List PendingCond) (c : Cond) : ∀ s : State,
    (xs.foldl (fun s x => raiseCond x.cond x.param s) s).isPending c = (s.isPending c || xs.any fun x => x.cond == c) := by
  induction xs with
  | nil => simp
  | cons x xs ih =>
    intro s
    rw [List.foldl_cons, ih, raiseCond_pending, List.any_cons, Bool.or_assoc]
    congr 2
    by_cases same : c = x.cond
    · simp [same]
    · rw [decide_eq_false same, beq_eq_false_iff_ne.mpr (Ne.symm same)]

theorem foldl_removeCond_same (cs : List Cond) (s : State) :
    SameExcept [.links] s (cs.foldl (fun s c => removeCond c s) s) :=
  foldl_same _ (fun u c => removeCond_same c u) cs s

theorem foldl_raiseCond_same (xs : List PendingCond) (s : State) :
    SameExcept [.links, .ev] s (xs.foldl (fun s x => raiseCond x.cond x.param s) s) :=
  foldl_same _ (fun u x => raiseCond_same x.cond x.param u) xs s

theorem foldl_raiseCond_onlyRaised (xs : List PendingCond) :
    ∀ s : State, OnlyRaised s (xs.foldl (fun s x => raiseCond x.cond x.param s) s) := by
  induction xs with
  | nil => exact .refl
  | cons x xs ih => exact fun s => (raiseCond_onlyRaised x.cond x.param s).trans (ih _)

/-- Which conditions persist does not depend on the ports. -/
theorem persisting_of_same (h : SameExcept [.links] s t) (p : Port) : persisting t p = persisting s p := by
  have table : t.table = s.table := h .table (by decide)
  have line : t.line = s.line := h .line (by decide)
  have belt : t.belt = s.belt := h .belt (by decide)
  cases p <;> simp only [persisting, table, line, belt]

theorem clearConds_same (p : Port) (cs : List Cond) (s : State) : SameExcept [.links, .ev] s (clearConds p cs s) :=
  (foldl_removeCond_same cs s).comp (foldl_raiseCond_same _ _)

theorem clearConds_onlyRaised (p : Port) (cs : List Cond) (s : State) : OnlyRaised s (clearConds p cs s) :=
  (OnlyRaised.of_same (foldl_removeCond_same cs s) (by decide)).trans (foldl_raiseCond_onlyRaised _ _)

/-- A named condition is pending again when it was pending and persists; any other is pending as before. -/
theorem clearConds_pending (p : Port) (cs : List Cond) (c : Cond) (s : State) :
    (clearConds p cs s).isPending c =
      (s.isPending c && (decide (c ∉ cs) || (persisting s p).any fun x => x.cond == c)) := by
  unfold clearConds
  dsimp only
  rw [foldl_raiseCond_pending, foldl_removeCond_pending, persisting_of_same (foldl_removeCond_same cs s), List.any_filter]
  have again : ((persisting s p).any fun x => (decide (x.cond ∈ cs) && s.isPending x.cond) && x.cond == c) =
      (decide (c ∈ cs) && s.isPending c && (persisting s p).any fun x => x.cond == c) := by
    induction persisting s p with
    | nil => simp
    | cons x xs ih =>
      rw [List.any_cons, List.any_cons, ih, Bool.and_or_distrib_left]
      congr 1
      by_cases same : x.cond = c
      · rw [same]
      · rw [beq_eq_false_iff_ne.mpr same, Bool.and_false, Bool.and_false]
  rw [again]
  by_cases named : c ∈ cs <;> cases s.isPending c <;> simp [named]

theorem clearConditionRule_unknown {p : Port} {body : List Byte} {codes : List Nat} (parsed : parseClear body = some codes)
    (none : namedConds p codes = none) (s : State) : clearConditionRule p body s = (s, .plain .badField) := by
  simp only [clearConditionRule, parsed, none]

theorem clearConditionRule_known {p : Port} {body : List Byte} {codes : List Nat} {cs : List Cond}
    (parsed : parseClear body = some codes) (named : namedConds p codes = some cs) (s : State) :
    clearConditionRule p body s = (clearConds p cs s, .plain .done) := by
  simp only [clearConditionRule, parsed, named]

theorem exec_clearCondition (p : Port) (s : State) :
    exec (.clearCondition p) s = .next (takeRequest p .clearCondition (clearConditionRule p) s) := rfl

/-- Taking the head of a queue leaves the pending conditions. -/
theorem begun_pending (p : Port) (s : State) (c : Cond) : (popRequest p s).begin.isPending c = s.isPending c := by
  have conds : ((popRequest p s).begin.port c.port).conds = (s.port c.port).conds := by
    by_cases same : c.port = p
    · have popped : (popRequest p s).begin.port p = { s.port p with queue := (s.port p).queue.tail } :=
        State.setPort_port_self s p _
      rw [same, popped]
    · exact congrArg PortState.conds (State.setPort_port_of_ne same s _)
  unfold State.isPending
  rw [conds]

/-- What the answer to a settled request leaves, the links and the event aside. -/
theorem answer_of_settled {p : Port} {k : Byte} {r : Reply} (h : Settled u) : SameExcept [.links, .ev] u (answer p k r u) := by
  have same := answer_same p k r u
  rw [h.settle_eq] at same
  exact same

theorem answer_pending_of_settled {p : Port} {k : Byte} {r : Reply} (h : Settled u) (c : Cond) :
    (answer p k r u).isPending c = u.isPending c := by
  rw [answer_pending, h.settle_eq]

/-- Settles O34: the named conditions leave, and those that persist come back. -/
theorem clearConditionClears : Obligations.ClearConditionClears := by
  unfold Obligations.ClearConditionClears
  intro p body codes s asks parsed
  refine ⟨fun none => ?unknown, fun cs named => ?known⟩
  case unknown => rw [exec_clearCondition, asks.refused (clearConditionRule_unknown parsed none _)]
  case known =>
    obtain ⟨run, replied⟩ := asks.run (clearConditionRule_known parsed named (popRequest p s).begin)
    have settled : Settled (clearConds p cs (popRequest p s).begin) := (clearConds_onlyRaised p cs _).settled
    have pending : ∀ c, (answer p RequestKind.clearCondition.code (.plain .done) (clearConds p cs (popRequest p s).begin)).isPending c =
        (s.isPending c && (decide (c ∉ cs) || (persisting s p).any fun x => x.cond == c)) := by
      intro c
      rw [answer_pending_of_settled settled, clearConds_pending, begun_pending]
      cases p <;> rfl
    refine ⟨_, run, replied, fun c mem => ?_, fun c out => ?_, ?_⟩
    · rw [pending, decide_eq_false (by simpa using mem), Bool.false_or]
    · rw [pending, decide_eq_true out, Bool.true_or, Bool.and_true]
    · exact ((begun_same p s).comp (clearConds_same p cs _) : SameExcept [.links, .ev] _ _).comp
        (answer_of_settled settled)

end Sys2Proof.Machine
end

section
/-! PROOFS. The mark code (section 3.2), and what the encoder step and the speed update do to the Web Position Unit. -/

namespace Sys2Proof.Machine

variable {s t u : State}

/-! ### The mark code: inverting one cell -/

/-- Inverting cell i changes that cell and no other. -/
theorem cell_invertCell {c : Cells} {i k : Nat} (inside : k < 32) :
    cell (invertCell c i) k = (cell c k ^^ decide (k = i)) := by
  unfold cell invertCell
  rw [BitVec.getLsbD_xor, BitVec.getLsbD_shiftLeft]
  congr 1
  rcases Nat.lt_trichotomy k i with less | rfl | more
  · simp [inside, less, Nat.ne_of_lt less]
  · simp [inside]
  · have pos : k - i ≠ 0 := by omega
    simp [inside, Nat.not_lt_of_gt more, Nat.ne_of_gt more, BitVec.getLsbD_one, pos]

theorem cell_invertCell_other {c : Cells} {i k : Nat} (inside : k < 32) (other : k ≠ i) :
    cell (invertCell c i) k = cell c k := by
  rw [cell_invertCell inside, decide_eq_false other, Bool.xor_false]

theorem invertCell_invertCell (c : Cells) (i : Nat) : invertCell (invertCell c i) i = c := by
  unfold invertCell
  rw [BitVec.xor_assoc, BitVec.xor_self, BitVec.xor_zero]

/-- The exclusive-or of the position numbers of the 1-cells among given positions. -/
def syndromeOver (c : Cells) (positions : List Nat) (start : Nat) : Nat :=
  positions.foldl (fun s i => if cell c i then s ^^^ i else s) start

theorem syndrome_eq (c : Cells) : syndrome c = syndromeOver c coded 0 := rfl

theorem syndromeOver_cons (c : Cells) (k : Nat) (positions : List Nat) (start : Nat) :
    syndromeOver c (k :: positions) start = syndromeOver c positions (if cell c k then start ^^^ k else start) := rfl

theorem syndromeOver_xor (c : Cells) (d : Nat) (positions : List Nat) :
    ∀ start, syndromeOver c positions (start ^^^ d) = syndromeOver c positions start ^^^ d := by
  induction positions with
  | nil => exact fun _ => rfl
  | cons k positions ih =>
    intro start
    rw [syndromeOver_cons, syndromeOver_cons, ← ih]
    split
    · rw [Nat.xor_assoc, Nat.xor_comm d k, ← Nat.xor_assoc]
    · rfl

/-- Inverting a cell that is not among the positions leaves the exclusive-or. -/
theorem syndromeOver_invert_out {c : Cells} {i : Nat} (positions : List Nat) :
    ∀ start, (∀ k ∈ positions, k < 32) → i ∉ positions →
      syndromeOver (invertCell c i) positions start = syndromeOver c positions start := by
  induction positions with
  | nil => exact fun _ _ _ => rfl
  | cons k positions ih =>
    intro start inside out
    obtain ⟨other, out⟩ := not_or.mp (mt List.mem_cons.mpr out)
    rw [syndromeOver_cons, syndromeOver_cons, cell_invertCell_other (inside k List.mem_cons_self) (Ne.symm other),
      ih _ (fun j mem => inside j (List.mem_cons_of_mem k mem)) out]

/-- Inverting a cell that stands once among the positions changes the exclusive-or by its number. -/
theorem syndromeOver_invert_in {c : Cells} {i : Nat} (positions : List Nat) :
    ∀ start, (∀ k ∈ positions, k < 32) → positions.Nodup → i ∈ positions →
      syndromeOver (invertCell c i) positions start = syndromeOver c positions start ^^^ i := by
  induction positions with
  | nil => exact fun _ _ _ mem => absurd mem List.not_mem_nil
  | cons k positions ih =>
    intro start inside once mem
    obtain ⟨fresh, once⟩ := List.nodup_cons.mp once
    have rest : ∀ j ∈ positions, j < 32 := fun j mem => inside j (List.mem_cons_of_mem k mem)
    rw [syndromeOver_cons, syndromeOver_cons]
    rcases List.mem_cons.mp mem with rfl | mem
    · rw [syndromeOver_invert_out positions _ rest fresh, ← syndromeOver_xor, cell_invertCell (inside i List.mem_cons_self)]
      cases cell c i <;> simp
    · have other : k ≠ i := fun same => fresh (same ▸ mem)
      rw [cell_invertCell_other (inside k List.mem_cons_self) other, ih _ rest once mem]

theorem coded_inside : ∀ k ∈ coded, k < 32 := by decide

theorem mem_coded {i : Nat} (inside : i < 32) (pos : i ≠ 0) : i ∈ coded := by
  unfold coded
  rw [List.mem_map]
  exact ⟨i - 1, List.mem_range.mpr (by omega), by omega⟩

/-- R42: the syndrome names the one wrong cell; cell 0 is none of those it covers. -/
theorem syndrome_invertCell (c : Cells) {i : Nat} (inside : i < 32) :
    syndrome (invertCell c i) = syndrome c ^^^ i := by
  rw [syndrome_eq, syndrome_eq]
  by_cases zero : i = 0
  · subst zero
    rw [syndromeOver_invert_out coded 0 coded_inside (by decide), Nat.xor_zero]
  · exact syndromeOver_invert_in coded 0 coded_inside (by decide) (mem_coded inside zero)

/-- The parity of the 1-cells among given positions. -/
def parityOver (c : Cells) (positions : List Nat) (start : Bool) : Bool :=
  positions.foldl (fun b i => b != cell c i) start

theorem parityOver_cons (c : Cells) (k : Nat) (positions : List Nat) (start : Bool) :
    parityOver c (k :: positions) start = parityOver c positions (start != cell c k) := rfl

theorem parityOver_not (c : Cells) (positions : List Nat) :
    ∀ start, parityOver c positions (!start) = !parityOver c positions start := by
  induction positions with
  | nil => exact fun _ => rfl
  | cons k positions ih =>
    intro start
    rw [parityOver_cons, parityOver_cons, ← ih, Bool.not_bne]

theorem parityOver_invert_out {c : Cells} {i : Nat} (positions : List Nat) :
    ∀ start, (∀ k ∈ positions, k < 32) → i ∉ positions →
      parityOver (invertCell c i) positions start = parityOver c positions start := by
  induction positions with
  | nil => exact fun _ _ _ => rfl
  | cons k positions ih =>
    intro start inside out
    obtain ⟨other, out⟩ := not_or.mp (mt List.mem_cons.mpr out)
    rw [parityOver_cons, parityOver_cons, cell_invertCell_other (inside k List.mem_cons_self) (Ne.symm other),
      ih _ (fun j mem => inside j (List.mem_cons_of_mem k mem)) out]

theorem parityOver_invert_in {c : Cells} {i : Nat} (positions : List Nat) :
    ∀ start, (∀ k ∈ positions, k < 32) → positions.Nodup → i ∈ positions →
      parityOver (invertCell c i) positions start = !parityOver c positions start := by
  induction positions with
  | nil => exact fun _ _ _ mem => absurd mem List.not_mem_nil
  | cons k positions ih =>
    intro start inside once mem
    obtain ⟨fresh, once⟩ := List.nodup_cons.mp once
    have rest : ∀ j ∈ positions, j < 32 := fun j mem => inside j (List.mem_cons_of_mem k mem)
    rw [parityOver_cons, parityOver_cons]
    rcases List.mem_cons.mp mem with rfl | mem
    · rw [parityOver_invert_out positions _ rest fresh, ← parityOver_not, cell_invertCell (inside i List.mem_cons_self)]
      simp
    · have other : k ≠ i := fun same => fresh (same ▸ mem)
      rw [cell_invertCell_other (inside k List.mem_cons_self) other, ih _ rest once mem]

theorem parityOdd_invertCell (c : Cells) {i : Nat} (inside : i < 32) : parityOdd (invertCell c i) = !parityOdd c :=
  parityOver_invert_in (List.range 32) false (fun _ mem => List.mem_range.mp mem) List.nodup_range
    (List.mem_range.mpr inside)

/-- The data stand in cells other than cell 0. -/
theorem fieldAt_invertCell_zero (c : Cells) (positions : List Nat) (data : ∀ k ∈ positions, k < 32 ∧ k ≠ 0) :
    fieldAt (invertCell c 0) positions = fieldAt c positions := by
  have whole : ∀ start, positions.foldl (fun n i => 2 * n + (if cell (invertCell c 0) i then 1 else 0)) start =
      positions.foldl (fun n i => 2 * n + (if cell c i then 1 else 0)) start := by
    induction positions with
    | nil => exact fun _ => rfl
    | cons k positions ih =>
      intro start
      obtain ⟨inside, pos⟩ := data k List.mem_cons_self
      rw [List.foldl_cons, List.foldl_cons, cell_invertCell_other inside pos,
        ih fun j mem => data j (List.mem_cons_of_mem k mem)]
  exact whole 0

theorem payload_invertCell_zero (c : Cells) : payload (invertCell c 0) = payload c := by
  unfold payload
  rw [fieldAt_invertCell_zero c [3, 5] (by decide),
    fieldAt_invertCell_zero c [6, 7, 9, 10, 11, 12, 13, 14, 15, 17, 18, 19, 20, 21] (by decide),
    fieldAt_invertCell_zero c [22, 23, 24, 25, 26, 27, 28, 29] (by decide),
    fieldAt_invertCell_zero c [30, 31] (by decide)]

/-- Settles O15: one wrong cell makes the parity odd and the syndrome its number; two leave the parity even and the syndrome
the exclusive-or of two different numbers. -/
theorem oneWrongCellIsCorrectedTwoAreDetected : Obligations.OneWrongCellIsCorrectedTwoAreDetected := by
  unfold Obligations.OneWrongCellIsCorrectedTwoAreDetected
  intro c word even
  refine ⟨?clean, fun i inside => ?one, fun i j insideI insideJ differ => ?two⟩
  case clean => unfold decodeCells; rw [even, word]
  case one =>
    have parity : parityOdd (invertCell c i) = true := by rw [parityOdd_invertCell c inside, even]; rfl
    have number : syndrome (invertCell c i) = i := by rw [syndrome_invertCell c inside, word, Nat.zero_xor]
    cases i with
    | zero => exact ⟨_, by unfold decodeCells; rw [parity, number], payload_invertCell_zero c⟩
    | succ k => exact ⟨_, by unfold decodeCells; rw [parity, number], by rw [invertCell_invertCell]⟩
  case two =>
    have parity : parityOdd (invertCell (invertCell c i) j) = false := by
      rw [parityOdd_invertCell _ insideJ, parityOdd_invertCell c insideI, even]
      rfl
    have number : syndrome (invertCell (invertCell c i) j) = i ^^^ j := by
      rw [syndrome_invertCell _ insideJ, syndrome_invertCell c insideI, word, Nat.zero_xor]
    obtain ⟨k, wrong⟩ := Nat.exists_eq_succ_of_ne_zero fun none => differ (Nat.xor_eq_zero_iff.mp none)
    unfold decodeCells
    rw [parity, number, wrong]

/-! ### The encoder step -/

theorem event_web {rule : State → State} (h : (rule s.begin).web = s.web) : (event rule s).web = s.web :=
  ((event_same rule s .web (by decide)).trans ((Moves.here (c := .inner) (g := false) _).settle.inner_web)).trans h

theorem closeOne_web (r : OpenRow) (s : State) : (closeOne r s).web = s.web := by
  have entered : (enterRow (decodedRow s r) (countRow (decodedRow s r) (advanceRow r s))).web = s.web :=
    ((Moves.here (c := .inner) _).countRow _ |>.enterRow _).inner_web
  unfold closeOne
  dsimp only
  split
  · exact (((Moves.here (c := .inner) (g := false) _).raiseCond _ _).trackLockLoss.inner_web).trans entered
  · exact entered

theorem closePassed_web (fuel : Nat) : ∀ s, (closePassed fuel s).web = s.web := by
  induction fuel with
  | zero => exact fun _ => rfl
  | succ fuel ih =>
    intro s
    unfold closePassed
    split
    · split
      · exact (ih _).trans (closeOne_web _ s)
      · rfl
    · rfl

theorem closeRow_web (r : OpenRow) (s : State) : (closeRow r s).web = s.web :=
  (closePassed_web 2 _).trans (closeOne_web r s)

/-- No event that a watched position brings moves the web. -/
theorem takeWatch_web (s : State) (w : Watch) : (takeWatch s w).web = s.web := by
  have z : Moves .inner false s.begin s.begin := .here _
  cases w with
  | rowEdge =>
    simp only [takeWatch]
    split
    · split
      · exact event_web (closeRow_web _ _)
      · rfl
    · rfl
  | firePoint =>
    simp only [takeWatch]
    split
    · split
      · exact event_web (z.fallDue _ _).inner_web
      · rfl
    · rfl
  | gateArrival =>
    simp only [takeWatch]
    split
    · split
      · exact event_web (z.passGate _).inner_web
      · rfl
    · rfl
  | wasteRetirement =>
    simp only [takeWatch]
    split
    · split
      · exact event_web (z.retireWaste _).inner_web
      · rfl
    · rfl
  | lostRetirement =>
    simp only [takeWatch]
    split
    · split
      · exact event_web (z.retireLost _).inner_web
      · rfl
    · rfl
  | travel =>
    simp only [takeWatch]
    split
    · exact event_web z.takeTravel.inner_web
    · rfl

theorem foldl_web {α : Type} {f : State → α → State} (h : ∀ v x, (f v x).web = v.web) (xs : List α) :
    ∀ v, (xs.foldl f v).web = v.web := by
  induction xs with
  | nil => exact fun _ => rfl
  | cons x xs ih => exact fun v => (ih _).trans (h v x)

theorem inFreeOrder_web {α : Type} {take : State → α → State} (h : ∀ v x, (take v x).web = v.web) (xs : List α)
    (s : State) : (inFreeOrder take xs s).web = s.web := by
  obtain ⟨ys, _, order | order⟩ := inFreeOrder_eq_foldl take xs s
  · rw [order]; exact foldl_web h ys s
  · rw [order]; exact foldl_web h ys s.drawn

theorem exec_encoderStep (d : Direction) (s : State) : exec (.encoderStep d) s = .next (stepWeb d s) := rfl

theorem stepWeb_sweeping (d : Direction) (h : s.line.sweep = true) : stepWeb d s = movePosition d s := if_pos h

theorem stepWeb_open (d : Direction) (h : s.line.sweep = false) :
    stepWeb d s = inFreeOrder takeWatch (dueWatches (movePosition d s)) (movePosition d s) :=
  if_neg (by simp [h])

theorem stepWeb_web (d : Direction) (s : State) : (stepWeb d s).web = (movePosition d s).web := by
  cases sweep : s.line.sweep with
  | true => rw [stepWeb_sweeping d sweep]
  | false => rw [stepWeb_open d sweep]; exact inFreeOrder_web takeWatch_web _ _

/-- Settles O37: the step moves P by one count, and nothing that follows from it moves the web. -/
theorem encoderStepCounts : Obligations.EncoderStepCounts := by
  unfold Obligations.EncoderStepCounts
  intro d s
  refine ⟨_, exec_encoderStep d s, ?_, fun sweep => ?_⟩
  · rw [stepWeb_web]
    cases d <;> rfl
  · rw [stepWeb_sweeping d sweep]
    rfl

/-! ### The speed update -/

theorem exec_speedUpdate (s : State) : exec .speedUpdate s = .next (updateSpeeds s) := rfl

theorem updateFirings_keepsPending (s : State) : KeepsPending s (updateFirings s) := by
  have due : ∀ (v : State) (f : Firing), KeepsPending v (takeLate v f) := by
    intro v f
    have left : KeepsPending v (v.setQueue (v.firing.queue.filter fun g => g ≠ f)) := .of_links rfl
    have taken := left.trans (takeDue_keepsPending f (signedDist f.firePoint v.web.position) v.firing.actual _)
    unfold takeLate fallDue
    dsimp only
    split
    · unfold askWithheld
      split <;> exact taken.trans (.of_links rfl)
    · exact taken
  exact (KeepsPending.of_links (t := retime s) rfl).trans (.foldl due _ _)

theorem takePart_keepsPending (s : State) (x : SpeedPart) : KeepsPending s (takePart s x) := by
  have hunting : ∀ v, KeepsPending v (evalHunting v) := by
    intro v
    unfold evalHunting
    split
    · split
      · exact setHold_keepsPending _ _ v
      · exact .refl v
    · exact setHold_keepsPending _ _ v
  cases x with
  | firings => exact event_keepsPending updateFirings_keepsPending s
  | stack =>
    exact event_keepsPending (fun v => (KeepsPending.of_same (examObligation_same v) (by decide)).trans
      (setHold_keepsPending _ _ _)) s
  | hunting => exact event_keepsPending hunting s
  | belt => exact event_keepsPending (fun v => .of_same (updateTravel_same v) (by decide)) s

theorem inFreeOrder_keepsPending {α : Type} {take : State → α → State} (h : ∀ v x, KeepsPending v (take v x))
    (xs : List α) (s : State) : KeepsPending s (inFreeOrder take xs s) := by
  obtain ⟨ys, _, order | order⟩ := inFreeOrder_eq_foldl take xs s
  · rw [order]; exact .foldl h ys s
  · rw [order]; exact (KeepsPending.of_links (t := s.drawn) rfl).trans (.foldl h ys _)

theorem sampleSpeed_web (s : State) : (sampleSpeed s).web = updateSpeed s.web := by
  unfold sampleSpeed
  dsimp only
  split
  · exact raiseCond_same _ _ _ .web (by decide)
  · rfl

theorem updateSpeeds_web (s : State) : (updateSpeeds s).web = updateSpeed s.web := by
  have sampled : (quiet sampleSpeed s).web = updateSpeed s.web :=
    (quiet_same sampleSpeed s .web (by decide)).trans (sampleSpeed_web s.begin)
  unfold updateSpeeds
  dsimp only
  split
  · exact sampled
  · exact ((inFreeOrder_takePart _).1.web).trans sampled

/-- OVERSPEED is pending after the update of a raw speed above 255 (R28). -/
theorem updateSpeeds_overspeed (fast : 255 < rawSpeed s.web) : (updateSpeeds s).isPending .overspeed = true := by
  have sampled : (quiet sampleSpeed s).isPending .overspeed = true := by
    have raised : sampleSpeed s.begin = raiseCond .overspeed .none (s.begin.setWeb (updateSpeed s.web)) := if_pos fast
    rw [quiet_pending, raised, raiseCond_self_pending]
  unfold updateSpeeds
  dsimp only
  split
  · exact sampled
  · exact (inFreeOrder_keepsPending takePart_keepsPending _ _ _ rfl).trans sampled

/-- Settles O41: the blocks that predict from the speed leave the web as the Web Position Unit sampled it. -/
theorem speedUpdateSamplesTheSpeed : Obligations.SpeedUpdateSamplesTheSpeed := by
  unfold Obligations.SpeedUpdateSamplesTheSpeed
  intro s
  refine ⟨_, exec_speedUpdate s, ?_⟩
  rw [updateSpeeds_web]
  have raw : rawSpeed s.web = signedDist s.web.kept s.web.position := rfl
  simp only [updateSpeed, ← raw, speedOf]
  refine ⟨trivial, trivial, fun back => ?back, fun forth slow => ?within, fun fast => ?fast⟩
  case back =>
    have slow : ¬ rawSpeed s.web > 255 := by omega
    simp [back, slow]
  case within =>
    have forth' : ¬ rawSpeed s.web < 0 := by omega
    have slow' : ¬ rawSpeed s.web > 255 := by omega
    simp [forth', slow', Int.toNat_of_nonneg forth]
  case fast =>
    have forth : ¬ rawSpeed s.web < 0 := by omega
    have whole : rawSpeed s.web > 255 := fast
    simp [forth, whole, updateSpeeds_overspeed fast]

end Sys2Proof.Machine
end

section
/-! PROOFS. The machine emptied (sections 9.5 and 9.6): RESET LINE, the power-up, the sweep's completion, PURGE; and what
each command may do to the line state. -/

namespace Sys2Proof.Machine

variable {s t u : State}

/-! ### The machine emptied -/

theorem withdrawOffer_same (s : State) : SameExcept [.links, .belt, .ev] s (withdrawOffer s) := by
  unfold withdrawOffer
  split
  · exact (endOffer_same s).comp (raiseCond_same _ _ _)
  · exact .refl s

theorem withdrawOffer_readiness (s : State) : (withdrawOffer s).belt.readiness = s.belt.readiness := by
  unfold withdrawOffer
  split
  · rw [raiseCond_same _ _ _ .belt (by decide)]
    rfl
  · rfl

theorem withdrawOffer_onlyRaised (s : State) : OnlyRaised s (withdrawOffer s) := by
  unfold withdrawOffer
  split
  · exact (OnlyRaised.of_same (endOffer_same s) (by decide)).trans (raiseCond_onlyRaised _ _ _)
  · exact .refl s

/-- An offer that stood ends: WITHDRAWN is pending and OFFER is not (R151). -/
theorem withdrawOffer_pending {n : Nat} (offered : s.belt.offered = some n) :
    (withdrawOffer s).isPending .withdrawn = true ∧ (withdrawOffer s).isPending .offer = false := by
  unfold withdrawOffer
  rw [offered]
  refine ⟨raiseCond_self_pending _ _ _, ?_⟩
  rw [raiseCond_pending]
  show ((removeCond .offer _).isPending .offer || false) = false
  rw [removeCond_pending, decide_eq_true rfl]
  simp

/-- t is s with its machine emptied, the folder left so. -/
structure EmptiedTo (folder : Folder → Folder) (s t : State) : Prop where
  web : t.web = s.web
  reader : t.reader = huntingAt s.web.position s.reader
  table : t.table = s.table
  track : t.track = { s.track with list := [], ref := .none, orphanRun := false }
  firing : t.firing = { s.firing with queue := [], planned := s.firing.actual }
  acc : t.acc = Accumulator.empty
  folder : t.folder = folder s.folder
  belt : t.belt = Delivery.empty s.belt.readiness
  line : t.line = { s.line with holds := HoldSet.none }
  choices : t.choices = s.choices
  pending : t.pending = s.pending
  asked : OnlyRaised s t
  withdrawn : ∀ n, s.belt.offered = some n → t.isPending .withdrawn = true ∧ t.isPending .offer = false

theorem emptyMachine_emptied (folder : Folder → Folder) (s : State) : EmptiedTo folder s (emptyMachine folder s) := by
  have same := withdrawOffer_same (leaveFolderAs folder (emptyStack (emptyFiring (emptyTracking s))))
  have asked := withdrawOffer_onlyRaised (leaveFolderAs folder (emptyStack (emptyFiring (emptyTracking s))))
  have ready := withdrawOffer_readiness (leaveFolderAs folder (emptyStack (emptyFiring (emptyTracking s))))
  have reader := same .reader (by decide)
  have web := same .web (by decide)
  refine
    { web := web
      reader := ?_
      table := same .table (by decide)
      track := same .track (by decide)
      firing := same .firing (by decide)
      acc := same .acc (by decide)
      folder := same .folder (by decide)
      belt := congrArg Delivery.empty ready
      line := same .line (by decide)
      choices := same .choices (by decide)
      pending := same .pending (by decide)
      asked := asked
      withdrawn := fun n offered => withdrawOffer_pending offered }
  show huntingAt (withdrawOffer _).web.position (withdrawOffer _).reader = _
  rw [web, reader]
  rfl

theorem abandonMachine_emptied (s : State) :
    EmptiedTo Folder.abandon (interruptSets s) (abandonMachine s) := emptyMachine_emptied _ _

/-! ### RESET LINE -/

theorem exec_resetLine (s : State) : exec .resetLine s = .next (takeRequest .line .resetLine resetLineRule s) := rfl

theorem lineFault_record (k : LineCause) (n : Option Nat) (h : s.line.state ≠ .faulted) :
    (lineFault k n s).line.record = { cause := some k, set := n, further := false } := by
  rw [lineFault_enters k n h]

theorem lineFault_record_further (k : LineCause) (n : Option Nat) (h : s.line.state = .faulted) :
    (lineFault k n s).line.record = { s.line.record with further := true } := by
  rw [lineFault_further k n h]
  rfl

theorem lineFault_holds (k : LineCause) (n : Option Nat) (s : State) : (lineFault k n s).line.holds = s.line.holds := by
  by_cases h : s.line.state = .faulted
  · rw [lineFault_further k n h]
    rfl
  · rw [lineFault_enters k n h]

/-- Settles O30: the machine is emptied, and then the fault of the reset is taken. -/
theorem resetLineAbandonsTheMachine : Obligations.ResetLineAbandonsTheMachine := by
  unfold Obligations.ResetLineAbandonsTheMachine
  intro s asks
  have emptied := abandonMachine_emptied (popRequest .line s).begin
  have fault := lineFault_same .lineReset none (abandonMachine (popRequest .line s).begin)
  have settled : Settled (lineFault .lineReset none (abandonMachine (popRequest .line s).begin)) :=
    OnlyRaised.settled (s := popRequest .line s)
      (((OnlyRaised.of_ev rfl).trans emptied.asked).trans (lineFault_onlyRaised _ _ _))
  obtain ⟨run, replied⟩ := asks.run (u := lineFault .lineReset none (abandonMachine (popRequest .line s).begin))
    (r := .plain .done) rfl
  have same : SameExcept [.links, .ev] (lineFault .lineReset none (abandonMachine (popRequest .line s).begin)) _ :=
    answer_of_settled (p := .line) (k := RequestKind.resetLine.code) (r := .plain .done) settled
  have line := same .line (by decide)
  have before : (abandonMachine (popRequest .line s).begin).line = { s.line with holds := HoldSet.none } := emptied.line
  have part : ∀ x : Part, x ∉ [Part.links, .line, .ev] → x.same (abandonMachine (popRequest .line s).begin)
      (answer .line RequestKind.resetLine.code (.plain .done)
        (lineFault .lineReset none (abandonMachine (popRequest .line s).begin))) :=
    fault.comp same (by decide) (by decide)
  refine ⟨_, run, replied, ?_, fun still => ?_, fun faulted => ?_, ?_, (part .track (by decide)).trans emptied.track,
    (part .firing (by decide)).trans emptied.firing, (part .acc (by decide)).trans emptied.acc, ?_, ?_,
    (part .belt (by decide)).trans emptied.belt, (part .reader (by decide)).trans emptied.reader,
    (part .table (by decide)).trans emptied.table, fun x out => ?_⟩
  · rw [line]; exact lineFault_faulted _ _ _
  · rw [line]; exact lineFault_record _ _ (by rw [before]; exact still)
  · rw [line, lineFault_record_further _ _ (by rw [before]; exact faulted), before]
  · rw [line, lineFault_holds, before]
  · rw [part .folder (by decide), emptied.folder]; rfl
  · rw [part .folder (by decide), emptied.folder]; rfl
  · cases x with
    | web => exact (part .web (by decide)).trans emptied.web
    | choices => exact (part .choices (by decide)).trans emptied.choices
    | pending => exact (part .pending (by decide)).trans emptied.pending
    | _ => exact absurd (by decide) out

/-! ### The power-up and the sweep's completion -/

theorem exec_powerUp (retain closed : Bool) (s : State) :
    exec (.powerUp retain closed) s = .next (quiet (powerOn retain closed) s) := rfl

/-- The machine emptied leaves every port as it was, its pending conditions aside. -/
theorem abandonMachine_port (s : State) (q : Port) :
    (abandonMachine s).port q = { s.port q with conds := ((abandonMachine s).port q).conds } :=
  ((Moves.here (c := .rule .resetLine) (g := false) s).abandonMachine rfl).quiet_ports rfl nofun q

theorem warmStart_port (g : Guard) (s : State) (q : Port) :
    ((warmStart g s).port q).link = .down ∧ ((warmStart g s).port q).queue = [] := by
  have off : (abandonMachine (s.setLinks s.links.poweredUp)).port q =
      { PortState.poweredUp (s.port q).conds with
        conds := ((abandonMachine (s.setLinks s.links.poweredUp)).port q).conds } := by
    rw [abandonMachine_port]
    cases q <;> rfl
  have raised := raiseCond_port .lineFault (.lineCause .powerLost) (warmLine g (gateToWaste (unready
    (abandonMachine (s.setLinks s.links.poweredUp))))) q
  have base : (warmLine g (gateToWaste (unready (abandonMachine (s.setLinks s.links.poweredUp))))).port q = _ := off
  rw [base] at raised
  unfold warmStart
  rw [raised]
  exact ⟨rfl, rfl⟩

/-- Settles O59: a warm start abandons the machine before the line is faulted afresh; a cold start is the reset values. -/
theorem powerUpStarts : Obligations.PowerUpStarts := by
  unfold Obligations.PowerUpStarts
  refine fun closed s => ⟨?warm, ?cold⟩
  case cold =>
    rw [exec_powerUp, quiet_idle _ rfl]
    rfl
  case warm =>
    have emptied := abandonMachine_emptied (s.begin.setLinks s.begin.links.poweredUp)
    have raised := raiseCond_same .lineFault (.lineCause .powerLost) (warmLine (guardOf closed) (gateToWaste (unready
      (abandonMachine (s.begin.setLinks s.begin.links.poweredUp)))))
    have part : ∀ x : Part, x ∉ [Part.links, .ev] → x.same (warmLine (guardOf closed) (gateToWaste (unready
        (abandonMachine (s.begin.setLinks s.begin.links.poweredUp))))) (quiet (powerOn true closed) s) :=
      raised.comp (quiet_same (powerOn true closed) s) (by decide) (by decide)
    have line : (quiet (powerOn true closed) s).line =
        (abandonMachine (s.begin.setLinks s.begin.links.poweredUp)).line.warm
          (abandonMachine (s.begin.setLinks s.begin.links.poweredUp)).web.position (guardOf closed) :=
      part .line (by decide)
    have web : (quiet (powerOn true closed) s).web =
        (abandonMachine (s.begin.setLinks s.begin.links.poweredUp)).web.warm := part .web (by decide)
    rw [emptied.web] at line web
    have track := (part .track (by decide)).trans emptied.track
    have firing : (quiet (powerOn true closed) s).firing =
        { (abandonMachine (s.begin.setLinks s.begin.links.poweredUp)).firing with actual := .waste, planned := .waste } :=
      part .firing (by decide)
    rw [emptied.firing] at firing
    have folder := (part .folder (by decide)).trans emptied.folder
    have belt : (quiet (powerOn true closed) s).belt =
        { (abandonMachine (s.begin.setLinks s.begin.links.poweredUp)).belt with readiness := .notReady } :=
      part .belt (by decide)
    rw [emptied.belt] at belt
    refine ⟨_, exec_powerUp true closed s, by rw [line]; rfl, by rw [line]; rfl, by rw [line]; rfl, by rw [line]; rfl,
      by rw [line]; rfl, by rw [web]; rfl, by rw [web]; rfl, by rw [web]; rfl, by rw [web]; rfl, by rw [web]; rfl,
      by rw [track], by rw [track]; rfl, by rw [firing], by rw [firing], (part .acc (by decide)).trans emptied.acc,
      by rw [folder]; rfl, by rw [folder]; rfl, belt, ?_, fun p => ?_, (part .table (by decide)).trans emptied.table⟩
    · rw [quiet_pending]
      exact raiseCond_self_pending _ _ _
    · have port := quiet_port (powerOn true closed) s p
      obtain ⟨down, empty⟩ := warmStart_port (guardOf closed) s.begin p
      exact ⟨port.link.trans down, port.queue.trans empty⟩

theorem exec_sweepComplete (closed : Bool) (s : State) :
    exec (.sweepComplete closed) s = .next (quiet (endSweep (guardOf closed)) s) := rfl

/-- Each port keeps its queue when every pending condition is cleared. -/
theorem clearAllConds_port (s : State) (p : Port) : (clearAllConds s).port p = { s.port p with conds := [] } := by
  cases p <;> rfl

/-- A condition raised where none is pending is the one pending condition. -/
theorem raiseCond_alone (k : Cond) (x : CondParam) (none : ∀ p, (s.port p).conds = []) (q : Port) :
    ((raiseCond k x s).port q).conds = if q = k.port then [{ cond := k, param := x }] else [] := by
  have fresh : s.isPending k = false := by unfold State.isPending; rw [none]; rfl
  unfold raiseCond
  rw [fresh]
  dsimp only
  rw [if_neg (by decide), State.port_setEv]
  split
  · rename_i same
    rw [same, State.setPort_port_self, none]
    rfl
  · rename_i other
    rw [State.setPort_port_of_ne other, none]

/-- Settles O60: the conditions of all ports are cleared and LINE_FAULT is raised; the notices that are sent leave the
queues and the pending conditions. -/
theorem sweepCompletionOpensTheLine : Obligations.SweepCompletionOpensTheLine := by
  unfold Obligations.SweepCompletionOpensTheLine
  intro closed s sweep
  have ended : endSweep (guardOf closed) s.begin = raiseCond .lineFault (.lineCause .coldStart)
      ((clearAllConds s.begin).setLine
        { s.line with sweep := false, stopPoint := s.web.position, guard := guardOf closed }) := if_pos sweep
  have cleared : ∀ p, (((clearAllConds s.begin).setLine
      { s.line with sweep := false, stopPoint := s.web.position, guard := guardOf closed }).port p).conds = [] :=
    fun p => congrArg PortState.conds (clearAllConds_port s.begin p)
  have conds : ∀ q, ((quiet (endSweep (guardOf closed)) s).port q).conds =
      if q = Port.line then [{ cond := .lineFault, param := .lineCause .coldStart }] else [] := by
    intro q
    show ((flushNotices _).port q).conds = _
    rw [flushNotices_conds, ended]
    exact raiseCond_alone .lineFault (.lineCause .coldStart) cleared q
  have same := quiet_same (endSweep (guardOf closed)) s
  rw [ended] at same
  have raised := raiseCond_same .lineFault (.lineCause .coldStart) ((clearAllConds s.begin).setLine
    { s.line with sweep := false, stopPoint := s.web.position, guard := guardOf closed })
  have part : SameExcept [.links, .ev] _ (quiet (endSweep (guardOf closed)) s) := raised.comp same (by decide) (by decide)
  refine ⟨_, exec_sweepComplete closed s, part .line (by decide), conds .line, conds .job, conds .delivery, fun p => ?_,
    ?_⟩
  · have queue : ((endSweep (guardOf closed) s.begin).port p).queue = (s.port p).queue := by
      rw [ended, raiseCond_port]
      show ((clearAllConds s.begin).port p).queue = _
      rw [clearAllConds_port]
      rfl
    exact (quiet_port (endSweep (guardOf closed)) s p).queue.trans queue
  · have begun : SameExcept [.links, .ev] s (clearAllConds s.begin) := (setEv_same _).comp (setLinks_same _)
    have lined : SameExcept [.links, .line, .ev] s ((clearAllConds s.begin).setLine
        { s.line with sweep := false, stopPoint := s.web.position, guard := guardOf closed }) :=
      begun.comp (setLine_same _)
    exact lined.comp part

end Sys2Proof.Machine
end

section
/-! PROOFS. PURGE (section 9.5): the sets written off, the queues they join, the clean STOPPED line; and the line states
that each command may enter or leave (section 9.1). -/

namespace Sys2Proof.Machine

variable {s t u : State}

/-! ### Lists of set numbers in ascending order -/

theorem insertAscending_of_le {n : Nat} {xs : List Nat} (least : ∀ m ∈ xs, n ≤ m) : insertAscending n xs = n :: xs := by
  cases xs with
  | nil => rfl
  | cons m rest => exact if_pos (least m (List.mem_cons_self ..))

theorem insertAscending_ordered (n : Nat) (xs : List Nat) (ordered : xs.Pairwise (· ≤ ·)) :
    (insertAscending n xs).Pairwise (· ≤ ·) := by
  induction xs with
  | nil => exact List.pairwise_singleton ..
  | cons m rest ih =>
    obtain ⟨least, tail⟩ := List.pairwise_cons.mp ordered
    unfold insertAscending
    split
    · rename_i le
      refine List.pairwise_cons.mpr ⟨fun x mem => ?_, ordered⟩
      rcases List.mem_cons.mp mem with rfl | mem
      · exact le
      · exact le.trans (least x mem)
    · rename_i gt
      refine List.pairwise_cons.mpr ⟨fun x mem => ?_, ih tail⟩
      rcases List.mem_cons.mp ((insertAscending_perm n rest).mem_iff.mp mem) with rfl | mem
      · omega
      · exact least x mem

theorem ascending_ordered (xs : List Nat) : (ascending xs).Pairwise (· ≤ ·) := by
  induction xs with
  | nil => exact List.Pairwise.nil
  | cons n rest ih => exact insertAscending_ordered n _ ih

theorem ascending_of_ordered {xs : List Nat} (ordered : xs.Pairwise (· ≤ ·)) : ascending xs = xs := by
  induction xs with
  | nil => rfl
  | cons n rest ih =>
    obtain ⟨least, tail⟩ := List.pairwise_cons.mp ordered
    show insertAscending n (ascending rest) = _
    rw [ih tail, insertAscending_of_le least]

theorem mem_setsWhere {p : SetRec → Bool} {n : Nat} :
    n ∈ setsWhere s p ↔ ∃ r ∈ s.table.records, r.number = n ∧ p r = true := by
  unfold setsWhere
  rw [(ascending_perm _).mem_iff]
  simp only [List.mem_map, List.mem_filter]
  exact ⟨fun ⟨r, ⟨mem, q⟩, e⟩ => ⟨r, mem, e, q⟩, fun ⟨r, mem, e, q⟩ => ⟨r, ⟨mem, q⟩, e⟩⟩

theorem setsWhere_nodup (table : TableOk s.table) (p : SetRec → Bool) : (setsWhere s p).Nodup :=
  (ascending_perm _).nodup_iff.mpr (table.numbers.sublist (List.filter_sublist.map _))

theorem setsWhere_length (s : State) (p : SetRec → Bool) :
    (setsWhere s p).length = (s.table.records.filter p).length := by
  unfold setsWhere
  rw [(ascending_perm _).length_eq, List.length_map]

/-! ### The sets written off (R22, R162 step 1) -/

/-- A record as PURGE leaves it. -/
def SetRec.purged (r : SetRec) : SetRec := { r with state := .diverted, cause := some (r.cause.getD .purged) }

theorem SetRec.purged_reprints (r : SetRec) : r.purged.reprints = true ↔ r.cause.getD .purged ≠ .routed := by
  simp [SetRec.reprints, SetRec.purged]

/-- A record as PURGE leaves it when it writes off the sets of some numbers. -/
def SetRec.purgedIn (ns : List Nat) (r : SetRec) : SetRec := if r.number ∈ ns then r.purged else r

theorem SetRec.purgedIn_number (ns : List Nat) (r : SetRec) : (r.purgedIn ns).number = r.number := by
  unfold SetRec.purgedIn
  split <;> rfl

theorem SetRec.purgedIn_mem {ns : List Nat} {r : SetRec} (h : r.number ∈ ns) : r.purgedIn ns = r.purged := if_pos h

theorem SetRec.purgedIn_out {ns : List Nat} {r : SetRec} (h : r.number ∉ ns) : r.purgedIn ns = r := if_neg h

/-- One set written off, then others: all are written off. -/
theorem SetRec.purgedIn_cons {n : Nat} {ns : List Nat} (once : n ∉ ns) (r : SetRec) :
    (r.purgedIn [n]).purgedIn ns = r.purgedIn (n :: ns) := by
  by_cases first : r.number = n
  · rw [purgedIn_mem (ns := [n]) (by simp [first]), purgedIn_mem (ns := n :: ns) (by simp [first])]
    exact purgedIn_out (by rw [← first] at once; exact once)
  · rw [purgedIn_out (ns := [n]) (by simp [first])]
    unfold SetRec.purgedIn
    simp [first]

/-- t is s with the sets of some numbers written off. -/
structure WrittenOff (ns : List Nat) (s t : State) : Prop where
  table : t.table = { s.table with records := s.table.records.map (SetRec.purgedIn ns) }
  line : t.line = { s.line with tally := Tally.diverted^[ns.length] s.line.tally }
  track : t.track = { s.track with list := t.track.list }
  ev : t.ev = { s.ev with ended := s.ev.ended ++ ns, awaitExam := t.ev.awaitExam }
  rest : SameExcept [.table, .line, .track, .ev] s t

theorem WrittenOff.nil (s : State) : WrittenOff [] s s where
  table := by
    have id : SetRec.purgedIn [] = id := funext fun r => SetRec.purgedIn_out List.not_mem_nil
    rw [id, List.map_id]
  line := rfl
  track := rfl
  ev := by rw [List.append_nil]
  rest := .refl s

theorem WrittenOff.cons {n : Nat} {ns : List Nat} (once : n ∉ ns) (h : WrittenOff [n] s t) (k : WrittenOff ns t u) :
    WrittenOff (n :: ns) s u where
  table := by
    rw [k.table, h.table]
    dsimp only
    rw [List.map_map]
    exact congrArg (fun l => { s.table with records := l })
      (List.map_congr_left fun r _ => SetRec.purgedIn_cons once r)
  line := by rw [k.line, h.line]; rfl
  track := by rw [k.track, h.track]
  ev := by rw [k.ev, h.ev]; simp
  rest := h.rest.comp k.rest

/-- A set in the machine is written off: it is DIVERTED with its cause kept or PURGED, and ends. -/
theorem purgeSet_writtenOff (table : TableOk s.table) {r : SetRec} (mem : r ∈ s.table.records)
    (alive : r.state.terminal = false) : WrittenOff [r.number] s (purgeSet s r.number) := by
  have found : s.findSet r.number = some r := table.find mem
  have marked : (updateSet r.number (fun r => { r with cause := some (r.cause.getD .purged) }) s).findSet r.number =
      some { r with cause := some (r.cause.getD .purged) } := findSet_updateSet_self _ (fun _ => rfl) found
  unfold purgeSet
  rw [makeTerminal_open .diverted marked alive]
  refine ⟨?_, rfl, rfl, rfl, ?_⟩
  · show SetTable.updated (SetTable.updated s.table _ _) _ _ = _
    unfold SetTable.updated
    rw [List.map_map]
    refine congrArg (fun l => { s.table with records := l }) (List.map_congr_left fun x memX => ?_)
    by_cases own : x.number = r.number
    · have same : x = r := table.unique memX mem own
      rw [SetRec.purgedIn_mem (by simp [own]), same]
      simp [SetRec.put, alive, SetRec.purged]
    · rw [SetRec.purgedIn_out (by simp [own])]
      simp [own]
  · intro x out
    cases x with
    | table | line | track | ev => exact absurd (by decide) out
    | _ => rfl

theorem purgeSets_writtenOff (ns : List Nat) : ∀ s : State, TableOk s.table → ns.Nodup →
    (∀ n ∈ ns, ∃ r ∈ s.table.records, r.number = n ∧ r.state.terminal = false) →
    WrittenOff ns s (ns.foldl purgeSet s) := by
  induction ns with
  | nil => exact fun s _ _ _ => .nil s
  | cons n rest ih =>
    intro s table once alive
    obtain ⟨new, restOnce⟩ := List.nodup_cons.mp once
    obtain ⟨r, mem, rfl, open_⟩ := alive n (List.mem_cons_self ..)
    have one := purgeSet_writtenOff table mem open_
    refine one.cons new (ih _ ?_ restOnce fun m memM => ?_)
    · rw [one.table]
      exact table.map _ fun x _ => SetRec.purgedIn_number _ x
    · obtain ⟨x, memX, rfl, openX⟩ := alive m (List.mem_cons_of_mem _ memM)
      have other : x.number ∉ [r.number] := fun e => new (List.mem_singleton.mp e ▸ memM)
      refine ⟨x, ?_, rfl, openX⟩
      rw [one.table]
      exact List.mem_map.mpr ⟨x, memX, SetRec.purgedIn_out other⟩

/-- Sets diverted, raised k times, stays at its largest count. -/
theorem diverted_iterate (k : Nat) : ∀ x : Tally, x.setsDiverted ≤ tallyMax →
    Tally.diverted^[k] x = { x with setsDiverted := min tallyMax (x.setsDiverted + k) } := by
  induction k with
  | zero =>
    intro x le
    rw [Function.iterate_zero, id, Nat.add_zero, min_eq_right le]
  | succ k ih =>
    intro x le
    have step : satInc x.setsDiverted ≤ tallyMax ∧
        min tallyMax (satInc x.setsDiverted + k) = min tallyMax (x.setsDiverted + (k + 1)) := by
      unfold satInc
      split <;> omega
    rw [Function.iterate_succ, Function.comp_apply, ih _ step.1]
    exact congrArg (fun d => { x with setsDiverted := d }) step.2

/-! ### The queues joined (R8, R9, R10) -/

/-- When sets join the queues the records stay, each set joins the Completion Order, and those whose record calls for it
the Reprint Queue. -/
theorem foldl_joinQueues_table (ns : List Nat) : ∀ s : State, (∀ n ∈ ns, ∃ r, s.findSet n = some r) →
    (ns.foldl joinQueues s).table.completion = s.table.completion ++ ns ∧
      ∀ m, m ∈ (ns.foldl joinQueues s).table.reprint ↔
        m ∈ s.table.reprint ∨ m ∈ ns ∧ ∃ r, s.findSet m = some r ∧ r.reprints = true := by
  induction ns with
  | nil => exact fun s _ => ⟨(List.append_nil _).symm, fun m => by simp⟩
  | cons n rest ih =>
    intro s found
    obtain ⟨r, at_n⟩ := found n (List.mem_cons_self ..)
    have same : ∀ m, (joinQueues s n).findSet m = s.findSet m := findSet_of_records (joinQueues_records s n)
    have joined := joinQueues_joined at_n
    obtain ⟨completion, reprint⟩ := ih (joinQueues s n) fun m mem => by
      rw [same]; exact found m (List.mem_cons_of_mem _ mem)
    refine ⟨?_, fun m => ?_⟩
    · show (rest.foldl joinQueues (joinQueues s n)).table.completion = _
      rw [completion, joined]
      exact List.append_assoc ..
    · show m ∈ (rest.foldl joinQueues (joinQueues s n)).table.reprint ↔ _
      rw [reprint m, joined, same]
      by_cases joins : r.reprints = true
      · have placed : m ∈ (s.table.joined n r.reprints).reprint ↔ m = n ∨ m ∈ s.table.reprint := by
          unfold SetTable.joined
          rw [joins]
          exact ((s.table.placed_perm n).mem_iff).trans List.mem_cons
        rw [placed, List.mem_cons]
        constructor
        · rintro ((rfl | old) | ⟨mem, q⟩)
          · exact .inr ⟨.inl rfl, r, at_n, joins⟩
          · exact .inl old
          · exact .inr ⟨.inr mem, q⟩
        · rintro (old | ⟨rfl | mem, q⟩)
          · exact .inl (.inr old)
          · exact .inl (.inl rfl)
          · exact .inr ⟨mem, q⟩
      · have kept : (s.table.joined n r.reprints).reprint = s.table.reprint := by
          unfold SetTable.joined
          rw [Bool.eq_false_of_not_eq_true joins]
          rfl
        rw [kept, List.mem_cons]
        constructor
        · rintro (old | ⟨mem, q⟩)
          · exact .inl old
          · exact .inr ⟨.inr mem, q⟩
        · rintro (old | ⟨rfl | mem, r', at', joins'⟩)
          · exact .inl old
          · rw [at_n] at at'
            cases at'
            exact absurd joins' joins
          · exact .inr ⟨mem, r', at', joins'⟩

/-- The sets that ended at an event join the queues in ascending order. -/
theorem flushEnded_table {ns : List Nat} (ended : s.ev.ended = ns) (ordered : ns.Pairwise (· ≤ ·))
    (found : ∀ n ∈ ns, ∃ r, s.findSet n = some r) :
    (flushEnded s).table.completion = s.table.completion ++ ns ∧
      ∀ m, m ∈ (flushEnded s).table.reprint ↔
        m ∈ s.table.reprint ∨ m ∈ ns ∧ ∃ r, s.findSet m = some r ∧ r.reprints = true := by
  unfold flushEnded
  rw [ended, ascending_of_ordered ordered]
  exact foldl_joinQueues_table ns _ found

/-! ### The clean line -/

/-- With the accumulator EMPTY nothing that an event asks for is left to do. -/
theorem examAsked_bare (held : s.acc.held = none) (empty : s.acc.state = .empty) : examAsked s = s := by
  have none : s.heldRec = none := by unfold State.heldRec; rw [held]; rfl
  have await : endAwait s = s := by unfold endAwait; rw [none]
  have due : dumpDue s = false := by unfold dumpDue; rw [empty]; rfl
  have dump : examDumpIf s = s := by
    unfold examDumpIf examDump
    rw [due]
    split <;> rfl
  unfold examAsked
  rw [await]
  split <;> exact dump

theorem examAsked_empty (empty : s.acc = Accumulator.empty) : examAsked s = s :=
  examAsked_bare (by rw [empty]; rfl) (by rw [empty]; rfl)

theorem stopClean_line (s : State) : (stopClean s).line =
    { s.line with record := FaultRecord.none, state := .stopped, stopPoint := s.web.position } := rfl

/-- PURGE carried out, the event not yet at its end. -/
theorem purgeMachine_writtenOff (table : TableOk s.table) :
    WrittenOff (setsWhere s fun r => r.state.inMachine) s (purgeSets s) :=
  purgeSets_writtenOff _ s table (setsWhere_nodup table _) fun n mem => by
    obtain ⟨r, memR, number, inside⟩ := mem_setsWhere.mp mem
    refine ⟨r, memR, number, ?_⟩
    cases state : r.state with
    | delivered | diverted | cancelled => rw [state] at inside; cases inside
    | _ => rfl

theorem purgeRule_grants (faulted : s.line.state = .faulted) (idle : s.stationBusy = false) (still : s.web.speed = 0) :
    purgeRule [] s = (purgeMachine s, .plain .done) := by
  simp [purgeRule, withEmptyBody, faulted, idle, still]

theorem exec_purge (s : State) : exec .purge s = .next (takeRequest .line .purge purgeRule s) := rfl

theorem purgeSets_noPlan (ns : List Nat) : ∀ s : State, (ns.foldl purgeSet s).ev.planWanted = s.ev.planWanted := by
  induction ns with
  | nil => exact fun _ => rfl
  | cons n rest ih =>
    intro s
    refine (ih _).trans ?_
    unfold purgeSet makeTerminal
    split <;> rfl

/-- At the end of a PURGE the sets it ended join the queues, and nothing else is left to do. -/
theorem settle_purgeMachine (fresh : s.ev.planWanted = false) :
    settle (purgeMachine s) = flushEnded (purgeMachine s) := by
  have emptied := emptyMachine_emptied Folder.purge (purgeSets s)
  have asked : (purgeMachine s).ev = { (purgeSets s).ev with raised := (purgeMachine s).ev.raised } := emptied.asked
  have plan : (purgeMachine s).ev.planWanted = false := by
    rw [asked]
    exact (purgeSets_noPlan _ s).trans fresh
  unfold settle
  rw [replan_idle plan]
  exact congrArg flushEnded (examAsked_empty emptied.acc)

theorem purgeMachine_ended (table : TableOk s.table) (fresh : s.ev = Event.none) :
    (purgeMachine s).ev.ended = setsWhere s fun r => r.state.inMachine := by
  have asked : (purgeMachine s).ev = { (purgeSets s).ev with raised := (purgeMachine s).ev.raised } :=
    (emptyMachine_emptied Folder.purge (purgeSets s)).asked
  rw [asked, (purgeMachine_writtenOff table).ev, fresh]
  rfl

/-! ### PURGE (R161, R162) -/

/-- Settles O29: the sets are written off, the machine is emptied, the line stops clean, and the sets join the queues. -/
theorem purgeLeavesACleanLine : Obligations.PurgeLeavesACleanLine := by
  unfold Obligations.PurgeLeavesACleanLine
  intro s asks faulted idle still table
  have off := purgeMachine_writtenOff (s := (popRequest .line s).begin) table
  have emptied := emptyMachine_emptied Folder.purge (purgeSets (popRequest .line s).begin)
  have settled := settle_purgeMachine (s := (popRequest .line s).begin) rfl
  have ended := purgeMachine_ended (s := (popRequest .line s).begin) table rfl
  obtain ⟨run, replied⟩ := asks.run (purgeRule_grants (s := (popRequest .line s).begin) faulted idle still)
  have flushed := flushEnded_same (purgeMachine (popRequest .line s).begin)
  have answered := answer_same .line RequestKind.purge.code (.plain .done) (purgeMachine (popRequest .line s).begin)
  rw [settled] at answered
  have part : SameExcept [.links, .table, .ev] (purgeMachine (popRequest .line s).begin) _ :=
    flushed.comp answered (by decide) (by decide)
  have records := off.table
  have inTable : (purgeMachine (popRequest .line s).begin).table = _ := emptied.table
  rw [records] at inTable
  have found : ∀ r ∈ s.table.records, (purgeMachine (popRequest .line s).begin).findSet r.number =
      some (r.purgedIn (setsWhere s fun r => r.state.inMachine)) := fun r mem => by
    have moved := table.map (SetRec.purgedIn (setsWhere s fun r => r.state.inMachine)) fun x _ =>
      SetRec.purgedIn_number _ x
    have at_r := moved.find (List.mem_map_of_mem (f := SetRec.purgedIn (setsWhere s fun r => r.state.inMachine)) mem)
    rw [SetRec.purgedIn_number] at at_r
    unfold State.findSet
    rw [inTable]
    exact at_r
  obtain ⟨completion, reprint⟩ := flushEnded_table ended (ascending_ordered _) fun n mem => by
    obtain ⟨r, memR, number, _⟩ := mem_setsWhere.mp mem
    exact ⟨_, number ▸ found r memR⟩
  have table' := answered .table (by decide)
  have kept : (flushEnded (purgeMachine (popRequest .line s).begin)).table.records =
      s.table.records.map (SetRec.purgedIn (setsWhere s fun r => r.state.inMachine)) := by
    rw [flushEnded_records, inTable]
    rfl
  have listed : ∀ r ∈ s.table.records, r.number ∈ setsWhere s (fun r => r.state.inMachine) ↔
      r.state.inMachine = true := fun r mem =>
    ⟨fun h => by
      obtain ⟨x, memX, same, inside⟩ := mem_setsWhere.mp h
      exact table.unique memX mem same ▸ inside, fun h => mem_setsWhere.mpr ⟨r, mem, rfl, h⟩⟩
  have line : (answer .line RequestKind.purge.code (.plain .done) (purgeMachine (popRequest .line s).begin)).line =
      { s.line with
        record := FaultRecord.none
        state := .stopped
        stopPoint := s.web.position
        holds := HoldSet.none
        tally := Tally.diverted^[(setsWhere s fun r => r.state.inMachine).length] s.line.tally } := by
    rw [part .line (by decide)]
    refine (stopClean_line (emptyMachine Folder.purge (purgeSets (popRequest .line s).begin))).trans ?_
    rw [emptied.line, emptied.web, off.line, off.rest .web (by decide)]
    rfl
  refine ⟨_, run, replied, by rw [line], by rw [line], by rw [line], by rw [line], ?_, ?_,
    (part .acc (by decide)).trans emptied.acc, ?_, ?_, ?_, ?_, ?_, fun r mem inside => ?_, fun r mem outside => ?_,
    fun n => ?_, fun few => ?_, fun n offered => ?_⟩
  · refine (part .track (by decide)).trans (emptied.track.trans ?_)
    rw [off.track]
    rfl
  · refine (part .firing (by decide)).trans (emptied.firing.trans ?_)
    rw [off.rest .firing (by decide)]
    rfl
  · refine (part .folder (by decide)).trans (emptied.folder.trans ?_)
    rw [off.rest .folder (by decide)]
    rfl
  · refine (part .belt (by decide)).trans (emptied.belt.trans ?_)
    rw [off.rest .belt (by decide)]
    rfl
  · refine (part .reader (by decide)).trans (emptied.reader.trans ?_)
    rw [off.rest .reader (by decide), off.rest .web (by decide)]
    rfl
  · refine (part .web (by decide)).trans (emptied.web.trans ?_)
    rw [off.rest .web (by decide)]
    rfl
  · rw [table', completion, inTable]
    rfl
  · rw [table', kept]
    have gone := SetRec.purgedIn_mem ((listed r mem).mpr inside)
    exact List.mem_map.mpr ⟨r, mem, gone⟩
  · rw [table', kept]
    have stays := SetRec.purgedIn_out fun h => by rw [(listed r mem).mp h] at outside; cases outside
    exact List.mem_map.mpr ⟨r, mem, stays⟩
  · rw [table', reprint n, inTable]
    refine or_congr Iff.rfl ⟨fun ⟨mem, r', at_n, joins⟩ => ?_, fun ⟨r, mem, number, inside, cause⟩ => ?_⟩
    · obtain ⟨r, memR, rfl, inside⟩ := mem_setsWhere.mp mem
      rw [found r memR, SetRec.purgedIn_mem ((listed r memR).mpr inside)] at at_n
      cases at_n
      exact ⟨r, memR, rfl, inside, r.purged_reprints.mp joins⟩
    · subst number
      refine ⟨(listed r mem).mpr inside, _, found r mem, ?_⟩
      rw [SetRec.purgedIn_mem ((listed r mem).mpr inside)]
      exact r.purged_reprints.mpr cause
  · rw [line, diverted_iterate _ _ few, setsWhere_length]
  · have keeps := settle_keepsPending (purgeMachine (popRequest .line s).begin)
    rw [answer_pending, answer_pending, keeps .withdrawn rfl, keeps .offer rfl]
    refine emptied.withdrawn n ?_
    rw [off.rest .belt (by decide)]
    exact offered

/-! ### The line states (R152, R155, R159, R162) -/

/-- What a taken request may come to: nothing is taken, a refusal by the port, or what the rule decides. -/
theorem takeRequest_cases {P : State → Prop} {p : Port} {k : RequestKind} {rule : Rule} (untaken : P s)
    (refused : ∀ x r, P (answer p x (.plain r) (popRequest p s).begin))
    (decided : ∀ x body, P (answer p x (rule body (popRequest p s).begin).2 (rule body (popRequest p s).begin).1)) :
    P (takeRequest p k rule s) := by
  unfold takeRequest
  split
  · split
    · unfold decideRequest
      split
      · exact refused _ _
      · split
        · exact refused _ _
        · exact decided _ _
    · exact untaken
  · exact untaken

/-- PURGE carried out leaves the line STOPPED to the event's end. -/
theorem answer_purgeMachine_line (x : Byte) (r : Reply) (fresh : s.ev.planWanted = false) :
    (answer .line x r (purgeMachine s)).line.state = .stopped := by
  have line : (answer .line x r (purgeMachine s)).line = (settle (purgeMachine s)).line :=
    answer_same .line x r (purgeMachine s) .line (by decide)
  rw [line, settle_purgeMachine fresh, flushEnded_same (purgeMachine s) .line (by decide)]
  rfl

/-- A request whose rule leaves the line as it was, and asks for nothing, leaves it so. -/
theorem answer_begun_line (p : Port) (x : Byte) (r : Reply) (s : State) :
    (answer p x r (popRequest p s).begin).line = s.line :=
  answer_of_settled (Settled.begin (popRequest p s)) .line (by decide)

/-- A PURGE is refused or carried out. -/
theorem purgeRule_cases (body : List Byte) (s : State) :
    (∃ r, purgeRule body s = (s, .plain r)) ∨ purgeRule body s = (purgeMachine s, .plain .done) := by
  unfold purgeRule withEmptyBody
  cases body with
  | nil =>
    dsimp only
    split
    · exact .inl ⟨_, rfl⟩
    · split
      · exact .inl ⟨_, rfl⟩
      · split
        · exact .inl ⟨_, rfl⟩
        · exact .inr rfl
  | cons => exact .inl ⟨_, rfl⟩

/-- A PURGE leaves the line as it was or STOPPED. -/
theorem purge_line (s : State) : (takeRequest .line .purge purgeRule s).line = s.line ∨
    (takeRequest .line .purge purgeRule s).line.state = .stopped := by
  refine takeRequest_cases (P := fun t => t.line = s.line ∨ t.line.state = .stopped) (.inl rfl)
    (fun x r => .inl (answer_begun_line _ _ _ _)) fun x body => ?_
  rcases purgeRule_cases body (popRequest .line s).begin with ⟨r, e⟩ | e
  · rw [e]; exact .inl (answer_begun_line _ _ _ _)
  · rw [e]; exact .inr (answer_purgeMachine_line x _ rfl)

/-- The line in FAULTED stays there during every command but PURGE. -/
theorem Move.faulted {c : During} {g : Bool} {u v : State} (m : Move c g u v) (h : u.line.state = .faulted) :
    v.line.state = .faulted ∨ c.cmd = some .purge := by
  cases m with
  | line x change =>
    by_cases stays : x.state = .faulted
    · exact .inl stays
    · exact .inr (change.leave h stays)
  | cold => exact .inl rfl
  | _ => exact .inl h

/-- The line is not set RUNNING but by START. -/
theorem Move.running {c : During} {g : Bool} {u v : State} (m : Move c g u v) (h : v.line.state = .running) :
    u.line.state = .running ∨ c.cmd = some .start := by
  cases m with
  | line x change =>
    by_cases already : u.line.state = .running
    · exact .inl already
    · exact .inr (change.run already h)
  | cold => cases h
  | _ => exact .inl h

/-- The line FAULTED with a first cause and a set number with it. -/
structure FaultedWith (cause : Option LineCause) (set : Option Nat) (l : Supervisor) : Prop where
  state : l.state = .faulted
  cause : l.record.cause = cause
  set : l.record.set = set

/-- The first line fault stays during a command other than PURGE and a power-up. -/
theorem Move.faultedWith {c : During} {g : Bool} {u v : State} {k : Option LineCause} {n : Option Nat} (m : Move c g u v)
    (purge : c.cmd ≠ some .purge) (power : ∀ a b, c.cmd ≠ some (.powerUp a b)) (h : FaultedWith k n u.line) :
    FaultedWith k n v.line := by
  have state : v.line.state = .faulted := (m.faulted h.state).resolve_right purge
  cases m with
  | line x change =>
    obtain ⟨cause, set⟩ := (change.first h.state state).resolve_right fun ⟨a, b, e⟩ => power a b e
    exact ⟨state, cause.trans h.cause, set.trans h.set⟩
  | cold r q x e => exact absurd e (power r q)
  | _ => exact ⟨state, h.cause, h.set⟩

theorem Moves.faultedWith {c : During} {g : Bool} {k : Option LineCause} {n : Option Nat} (m : Moves c g s t)
    (purge : c.cmd ≠ some .purge) (power : ∀ a b, c.cmd ≠ some (.powerUp a b)) (h : FaultedWith k n s.line) :
    FaultedWith k n t.line :=
  m.keeps (P := fun v => FaultedWith k n v.line) (fun _ _ move => move.faultedWith purge power) h

/-- Settles O12: the moves of a command keep what holds of the line; a PURGE leaves it as it was or STOPPED. -/
theorem lineStateGates : Obligations.LineStateGates := by
  unfold Obligations.LineStateGates
  intro c s t run
  have moves := exec_moves c run
  refine ⟨fun faulted left => ?_, fun still runs => ?_, fun power faulted still => ?_⟩
  · have keeps : t.line.state = .faulted ∨ c = .purge :=
      moves.keeps (P := fun v => v.line.state = .faulted ∨ c = .purge)
        (fun u v m h => h.elim (fun f => (m.faulted f).imp id Option.some.inj) .inr) (.inl faulted)
    exact keeps.resolve_left left
  · have keeps : t.line.state = .running → c = .start :=
      moves.keeps (P := fun v => v.line.state = .running → c = .start)
        (fun u v m h r => (m.running r).elim h Option.some.inj) fun r => absurd r still
    exact keeps runs
  · by_cases purge : c = .purge
    · subst purge
      rw [exec_purge] at run
      cases run
      rcases purge_line s with same | stopped
      · rw [same]; exact ⟨rfl, rfl⟩
      · rw [stopped] at still; cases still
    · have first := moves.faultedWith (fun e => purge (Option.some.inj e)) (fun a b e => power a b (Option.some.inj e))
        ⟨faulted, rfl, rfl⟩
      exact ⟨first.cause, first.set⟩

end Sys2Proof.Machine
end

section
/-! PROOFS. Requests that change sets and the run (sections 1.6, 8.5, 8.6 and 9.2): what the accumulator steps leave of a
record; AMEND SET, RELEASE SET, the collecting requests, START, readiness, and the answers to an offer. -/

namespace Sys2Proof.Machine

variable {s t u : State}

/-! ### A record carried on by the accumulator steps -/

/-- r' is r further along its accumulator steps: its state may have changed and steps may have been passed, and it is not
HELD again once HOLD is passed. -/
structure Carried (r r' : SetRec) : Prop where
  only : r' = { r with state := r'.state, stepsPassed := r'.stepsPassed }
  passed : r.stepsPassed ⊆ r'.stepsPassed
  released : StepKind.hold ∈ r.stepsPassed → r.state ≠ .held → r'.state ≠ .held

theorem Carried.refl (r : SetRec) : Carried r r := ⟨rfl, List.Subset.refl _, fun _ => id⟩

theorem Carried.trans {a b d : SetRec} (h : Carried a b) (k : Carried b d) : Carried a d where
  only := by rw [k.only, h.only]
  passed _ mem := k.passed (h.passed mem)
  released hold still := k.released (h.passed hold) (h.released hold still)

theorem Carried.declared {r r' : SetRec} (h : Carried r r') : SameDeclared r r' := by
  rw [h.only]
  exact ⟨rfl, rfl, rfl, rfl, rfl⟩

theorem Carried.skewed {r r' : SetRec} (h : Carried r r') : r'.skewed = r.skewed := by rw [h.only]

theorem Carried.put {x : SetState} {r : SetRec} (other : x ≠ .held ∨ StepKind.hold ∉ r.stepsPassed) :
    Carried r (r.put x) := by
  unfold SetRec.put
  split
  · exact .refl r
  · exact ⟨rfl, List.Subset.refl _, fun hold _ => other.resolve_right fun no => no hold⟩

theorem SetRec.mem_pass (k : StepKind) (r : SetRec) : k ∈ (r.pass k).stepsPassed := by
  unfold SetRec.pass
  dsimp only
  split
  · rename_i already
    simpa using already
  · exact List.mem_append_right _ (List.mem_singleton.mpr rfl)

theorem SetRec.subset_pass (k : StepKind) (r : SetRec) : r.stepsPassed ⊆ (r.pass k).stepsPassed := by
  unfold SetRec.pass
  dsimp only
  split
  · exact List.Subset.refl _
  · exact List.subset_append_left ..

theorem Carried.pass (k : StepKind) (r : SetRec) : Carried r (r.pass k) := ⟨rfl, r.subset_pass k, fun _ => id⟩

theorem Carried.finish (k : StepKind) (r : SetRec) : Carried r (r.finish k) := ⟨rfl, r.subset_pass k, fun _ _ => nofun⟩

/-- A next step is of a kind not yet passed. -/
theorem SetRec.nextStep_new {r : SetRec} {x : Step} (h : r.nextStep = some x) : x.kind ∉ r.stepsPassed := by
  have new := List.find?_some h
  simp only [Bool.and_eq_true, Bool.not_eq_true', List.contains_eq_mem, decide_eq_false_iff_not] at new
  exact new.2

/-- Every record of s is in t, carried on. -/
def KeepsRecords (s t : State) : Prop := ∀ n r, s.findSet n = some r → ∃ r', t.findSet n = some r' ∧ Carried r r'

namespace KeepsRecords

theorem of_findSet (h : ∀ n, t.findSet n = s.findSet n) : KeepsRecords s t :=
  fun n r found => ⟨r, (h n).trans found, .refl r⟩

theorem refl (s : State) : KeepsRecords s s := of_findSet fun _ => rfl

theorem trans (h : KeepsRecords s t) (k : KeepsRecords t u) : KeepsRecords s u := fun n r found => by
  obtain ⟨r', found', carried⟩ := h n r found
  obtain ⟨r'', found'', carried'⟩ := k n r' found'
  exact ⟨r'', found'', carried.trans carried'⟩

theorem updateSet (n : Nat) (f : SetRec → SetRec) (number : ∀ r, (f r).number = r.number)
    (carried : ∀ r, s.findSet n = some r → Carried r (f r)) : KeepsRecords s (updateSet n f s) := by
  intro m r found
  by_cases own : m = n
  · subst own
    exact ⟨f r, findSet_updateSet_self f number found, carried r found⟩
  · exact ⟨r, (findSet_updateSet_other f number own s).trans found, .refl r⟩

theorem putSetState {x : SetState} (n : Nat)
    (other : ∀ r, s.findSet n = some r → x ≠ .held ∨ StepKind.hold ∉ r.stepsPassed) :
    KeepsRecords s (putSetState n x s) :=
  updateSet n _ (fun r => by unfold SetRec.put; split <;> rfl) fun r found => .put (other r found)

end KeepsRecords

theorem beginHold_keepsRecords {n : Nat} (i : Nat) (new : ∀ r, s.findSet n = some r → StepKind.hold ∉ r.stepsPassed) :
    KeepsRecords s (beginHold n i s) :=
  (KeepsRecords.putSetState (x := .held) n fun r found => .inr (new r found)).trans
    (.of_findSet fun m => raiseCond_findSet _ _ _ m)

theorem takeSteps_keepsRecords (fuel : Nat) : ∀ s, KeepsRecords s (takeSteps fuel s) := by
  induction fuel with
  | zero => exact fun s => .refl s
  | succ fuel ih =>
    intro s
    unfold takeSteps
    split
    · exact .refl s
    · rename_i r held
      split
      · split
        · rename_i t next
          split
          · exact (KeepsRecords.updateSet r.number (SetRec.pass .hold) (fun _ => rfl) fun x _ => .pass .hold x).trans
              (ih _)
          · refine beginHold_keepsRecords t fun x found => ?_
            rw [(heldRec_found held).1] at found
            cases found
            exact SetRec.nextStep_new next
        · split
          · exact (KeepsRecords.updateSet r.number (SetRec.pass .await) (fun _ => rfl) fun x _ => .pass .await x).trans
              (ih _)
          · exact .putSetState _ fun _ _ => .inl nofun
        · exact .refl s
      · exact .refl s

theorem examHandOver_keepsRecords (s : State) : KeepsRecords s (examHandOver s) := by
  unfold examHandOver
  split
  · split
    · exact (KeepsRecords.putSetState (x := .folding) _ fun _ _ => .inl nofun).trans
        (.of_findSet fun m => evalAccBlocked_findSet _ m)
    · exact .refl s
  · exact .refl s

theorem goOn_keepsRecords (s : State) : KeepsRecords s (goOn s) :=
  ((takeSteps_keepsRecords 4 s).trans (examHandOver_keepsRecords _)).trans (.of_findSet fun m => examSquaring_findSet _ m)

theorem examStack_keepsRecords (s : State) : KeepsRecords s (examStack s) :=
  ((KeepsRecords.of_findSet fun m => examDump_findSet s m).trans (examHandOver_keepsRecords _)).trans
    (.of_findSet fun m => examSquaring_findSet _ m)

/-- An answer at an event that asked for nothing leaves the records as its rule left them. -/
theorem answer_findSet_of_settled {p : Port} {k : Byte} {r : Reply} (h : Settled s) (n : Nat) :
    (answer p k r s).findSet n = s.findSet n := by rw [answer_findSet, h.settle_eq]

/-! ### AMEND SET (R12, R13, R111) -/

theorem Amend.merge_number (a : Amend) (r : SetRec) : (a.merge r).number = r.number := rfl

/-- An amendment that may be taken. -/
theorem amendSetRule_amends {body : List Byte} {r : SetRec} {raw : Amendment} {a : Amend} (whole : 4 ≤ body.length)
    (found : s.findSet (leNat (body.take 4)) = some r) (parsed : parseAmendment (body.drop 4) = some raw)
    (read : raw.read = some a) (permitted : a.wrongState r = false)
    (valid : programFault (a.merge r).pages ((a.merge r).program.map some) = none) :
    amendSetRule body s =
      (if r.state = .collected ∧ s.acc.held = some r.number ∧ (a.merge r).program ≠ r.program then
          goOn (updateSet r.number a.merge s) else updateSet r.number a.merge s,
        setReply raw.clampsPriority raw.clampsHold) := by
  have short : ¬ body.length < 4 := by omega
  simp only [amendSetRule, if_neg short, found, parsed, read, amendRecord, permitted, valid]
  rfl

theorem setReply_result (priority hold : Bool) :
    (setReply priority hold).result = .done ∨ (setReply priority hold).result = .doneClamped := by
  unfold setReply
  split
  · exact .inr rfl
  · exact .inl rfl

/-- Settles O23: the record takes the merged fields; only the set in the accumulator, amended in its program, goes on with
its steps, which change no declared field. -/
theorem amendSetMerges : Obligations.AmendSetMerges := by
  unfold Obligations.AmendSetMerges
  intro body r raw a s asks whole found parsed read permitted valid
  have number : leNat (body.take 4) = r.number := (findSet_number found).symm
  rw [number] at found
  have rule := amendSetRule_amends (s := (popRequest .job s).begin) whole (number ▸ found) parsed read permitted valid
  have merged : (updateSet r.number a.merge (popRequest .job s).begin).findSet r.number = some (a.merge r) :=
    findSet_updateSet_self a.merge a.merge_number found
  have begun := begun_same .job s
  have updated := updateSet_same r.number a.merge (popRequest .job s).begin
  by_cases goes : r.state = .collected ∧ s.acc.held = some r.number ∧ (a.merge r).program ≠ r.program
  · have goesNow : r.state = .collected ∧ (popRequest .job s).begin.acc.held = some r.number ∧
        (a.merge r).program ≠ r.program := goes
    rw [if_pos goesNow] at rule
    obtain ⟨run, replied⟩ := asks.run rule
    have settled : Settled (goOn (updateSet r.number a.merge (popRequest .job s).begin)) :=
      (Settled.begin (popRequest .job s)).of_onlyRaised (goOn_onlyRaised (updateSet r.number a.merge (popRequest .job s).begin))
    obtain ⟨r', found', carried⟩ := goOn_keepsRecords _ _ _ merged
    have same : SameExcept [.links, .table, .acc, .folder, .line, .ev] s _ :=
      ((begun.comp updated (n := [.links, .table, .ev]) (by decide) (by decide)).comp (goOn_same _)
        (n := [.links, .table, .acc, .folder, .line, .ev]) (by decide) (by decide)).comp
        (answer_of_settled (p := .job) (k := RequestKind.amendSet.code) (r := setReply raw.clampsPriority raw.clampsHold)
          settled) (by decide) (by decide)
    refine ⟨_, _, _, run, replied, setReply_result _ _, ⟨r', ?_, carried.declared⟩, same, fun no => ?_⟩
    · rw [answer_findSet_of_settled settled]; exact found'
    · obtain ⟨collected, held, changed⟩ := goes
      rcases no with no | no | no
      · exact absurd collected no
      · exact absurd held no
      · exact absurd no changed
  · have staysNow : ¬ (r.state = .collected ∧ (popRequest .job s).begin.acc.held = some r.number ∧
        (a.merge r).program ≠ r.program) := goes
    rw [if_neg staysNow] at rule
    obtain ⟨run, replied⟩ := asks.run rule
    have settled : Settled (updateSet r.number a.merge (popRequest .job s).begin) :=
      (OnlyRaised.of_same updated (by decide)).settled
    have same : SameExcept [.links, .table, .ev] s _ :=
      (begun.comp updated (n := [.links, .table, .ev]) (by decide) (by decide)).comp
        (answer_of_settled (p := .job) (k := RequestKind.amendSet.code) (r := setReply raw.clampsPriority raw.clampsHold)
          settled) (by decide) (by decide)
    have found' := (answer_findSet_of_settled (p := .job) (k := RequestKind.amendSet.code)
      (r := setReply raw.clampsPriority raw.clampsHold) settled r.number).trans merged
    exact ⟨_, _, _, run, replied, setReply_result _ _, ⟨_, found', ⟨rfl, rfl, rfl, rfl, rfl⟩⟩, same.mono (by decide),
      fun _ => ⟨found', same⟩⟩

/-! ### RELEASE SET (R15, R113) -/

section
variable {body : List Byte} {n : Nat} {r : SetRec}

theorem releaseSetRule_preReleases (parsed : parseSetNumber body = some n) (found : s.findSet n = some r)
    (steps : (holdOf r.program).isSome) (early : r.cause ≠ some .holdExpired) (may : r.preReleasable = true) :
    releaseSetRule body s = (updateSet n (fun r => { r with preReleased := true }) s, .plain .done) := by
  have not_held : r.state ≠ .held := fun held => by unfold SetRec.preReleasable at may; rw [held] at may; cases may
  have some_hold : (holdOf r.program).isNone = false := by simpa using steps
  simp [releaseSetRule, withSetNumber, parsed, found, early, some_hold, not_held, may]

theorem releaseSetRule_ends (parsed : parseSetNumber body = some n) (found : s.findSet n = some r)
    (steps : (holdOf r.program).isSome) (good : r.cause = none) (held : r.state = .held) :
    releaseSetRule body s = (endHold n s, .plain .done) := by
  have some_hold : (holdOf r.program).isNone = false := by simpa using steps
  simp [releaseSetRule, withSetNumber, parsed, found, good, some_hold, held]

end

/-- A set that has passed HOLD starts no hold timer as it goes on. -/
theorem takeSteps_holdTimer (fuel : Nat) : ∀ s : State,
    (∀ r, s.heldRec = some r → StepKind.hold ∈ r.stepsPassed) → (takeSteps fuel s).acc.holdTimer = s.acc.holdTimer := by
  induction fuel with
  | zero => exact fun _ _ => rfl
  | succ fuel ih =>
    intro s passed
    unfold takeSteps
    split
    · rfl
    · rename_i r held
      split
      · split
        · rename_i next
          exact absurd (passed r held) (SetRec.nextStep_new next)
        · split
          · refine ih (updateSet r.number (SetRec.pass .await) s) fun x heldX => ?_
            obtain ⟨foundX, accX⟩ := heldRec_found heldX
            obtain ⟨found, acc⟩ := heldRec_found held
            have same : x.number = r.number := Option.some.inj (accX.symm.trans acc)
            rw [same, findSet_updateSet_self (SetRec.pass .await) (fun _ => rfl) found] at foundX
            cases foundX
            exact r.subset_pass .await (passed r held)
          · rfl
        · rfl
      · rfl

theorem examHandOver_holdTimer (s : State) : (examHandOver s).acc.holdTimer = s.acc.holdTimer := by
  unfold examHandOver
  split
  · split
    · unfold startHandOver evalAccBlocked
      rw [setHold_same _ _ _ .acc (by decide)]
      rfl
    · rfl
  · rfl

theorem examSquaring_holdTimer (s : State) : (examSquaring s).acc.holdTimer = s.acc.holdTimer := by
  unfold examSquaring
  split
  · split <;> rfl
  · rfl

/-- RELEASE SET of the HELD set: its hold timer stands, HOLD is passed, and it is not HELD again. -/
theorem endHold_ends {n : Nat} {r : SetRec} (found : s.findSet n = some r) (inBin : s.acc.held = some n) :
    (endHold n s).acc.holdTimer = none ∧
      ∃ r', (endHold n s).findSet n = some r' ∧ Carried (r.finish .hold) r' := by
  have ended : (updateSet n (SetRec.finish .hold) (s.setAcc { s.acc with holdTimer := none })).findSet n =
      some (r.finish .hold) :=
    findSet_updateSet_self (SetRec.finish .hold) (fun _ => rfl) (s := s.setAcc { s.acc with holdTimer := none }) found
  refine ⟨?_, goOn_keepsRecords _ _ _ ended⟩
  unfold endHold goOn
  rw [examSquaring_holdTimer, examHandOver_holdTimer]
  refine takeSteps_holdTimer 4 _ fun x held => ?_
  obtain ⟨foundX, accX⟩ := heldRec_found held
  have same : x.number = n := Option.some.inj (accX.symm.trans inBin)
  rw [same, ended] at foundX
  cases foundX
  exact r.mem_pass .hold

theorem endHold_same (n : Nat) (s : State) : SameExcept [.links, .table, .acc, .folder, .line, .ev] s (endHold n s) :=
  ((setAcc_same _).comp (updateSet_same _ _ _) (n := [.table, .acc]) (by decide) (by decide)).comp (goOn_same _)
    (by decide) (by decide)

/-- Settles O25: a set before its HOLD is marked; the HELD set passes HOLD and goes on. -/
theorem releaseSetEndsAHold : Obligations.ReleaseSetEndsAHold := by
  unfold Obligations.ReleaseSetEndsAHold
  intro body n r s asks parsed found steps
  refine ⟨fun early may => ?_, fun good held inBin => ?_⟩
  · obtain ⟨run, replied⟩ :=
      asks.run (releaseSetRule_preReleases (s := (popRequest .job s).begin) parsed found steps early may)
    have settled : Settled (updateSet n (fun r => { r with preReleased := true }) (popRequest .job s).begin) :=
      (OnlyRaised.of_same (updateSet_same _ _ _) (by decide)).settled
    refine ⟨_, run, replied, ?_, ?_⟩
    · rw [answer_findSet_of_settled settled]
      exact findSet_updateSet_self (fun r => { r with preReleased := true }) (fun _ => rfl)
        (s := (popRequest .job s).begin) found
    · exact ((begun_same .job s).comp (updateSet_same _ _ _) (n := [.links, .table, .ev]) (by decide) (by decide)).comp
        (answer_of_settled settled) (by decide) (by decide)
  · obtain ⟨run, replied⟩ := asks.run (releaseSetRule_ends (s := (popRequest .job s).begin) parsed found steps good held)
    have settled : Settled (endHold n (popRequest .job s).begin) :=
      (Settled.begin (popRequest .job s)).of_onlyRaised (goOn_onlyRaised
        (updateSet n (SetRec.finish .hold) ((popRequest .job s).begin.setAcc
          { (popRequest .job s).begin.acc with holdTimer := none })))
    obtain ⟨timer, r', found', carried⟩ := endHold_ends (s := (popRequest .job s).begin) found inBin
    have same := answer_of_settled (p := .job) (k := RequestKind.releaseSet.code) (r := .plain .done) settled
    refine ⟨_, r', run, replied, ?_, ?_, ?_, carried.passed (r.mem_pass .hold), carried.released (r.mem_pass .hold) nofun,
      ?_⟩
    · rw [same .acc (by decide)]; exact timer
    · rw [answer_findSet_of_settled settled]; exact found'
    · exact (Carried.finish .hold r).declared.trans carried.declared
    · exact ((begun_same .job s).comp (endHold_same n _) (n := [.links, .table, .acc, .folder, .line, .ev]) (by decide)
        (by decide)).comp same (by decide) (by decide)

/-! ### The collecting requests (R17, R18, R19) -/

theorem exec_takeCompletion (s : State) :
    exec .takeCompletion s = .next (takeRequest .job .takeCompletion takeCompletionRule s) := rfl

theorem exec_takeReprint (s : State) : exec .takeReprint s = .next (takeRequest .job .takeReprint takeReprintRule s) := rfl

/-- An event that ended no set and asked for no plan leaves the outcome queues and the tally. -/
theorem settle_keepsOutcomes (ended : s.ev.ended = []) (plan : s.ev.planWanted = false) : KeepsOutcomes s (settle s) := by
  have asked := examAsked_keepsOutcomes s
  have none : (examAsked s).ev.ended = [] := asked.ended.trans ended
  have flushed : flushEnded (examAsked s) = (examAsked s).setEv { (examAsked s).ev with ended := [] } := by
    unfold flushEnded
    rw [none]
    rfl
  unfold settle
  rw [replan_idle plan, flushed]
  exact ⟨asked.completion, asked.reprint, asked.tally, ended.symm⟩

theorem answer_outcomes {p : Port} {k : Byte} {r : Reply} (ended : s.ev.ended = []) (plan : s.ev.planWanted = false) :
    (answer p k r s).table.completion = s.table.completion ∧ (answer p k r s).table.reprint = s.table.reprint := by
  have keeps := settle_keepsOutcomes ended plan
  have table : (answer p k r s).table = (settle s).table := answer_same p k r s .table (by decide)
  rw [table]
  exact ⟨keeps.completion, keeps.reprint⟩

/-- A record that is freed is gone, and stays so to the event's end; one that is not freed is as it was. -/
theorem answer_freeIfDone {p : Port} {k : Byte} {x : Reply} {n : Nat} {r : SetRec} (found : s.findSet n = some r)
    (fresh : s.ev = Event.none) :
    (answer p k x (freeIfDone n s)).findSet n =
        (if r.reported = true ∧ n ∉ s.table.reprint then none else some r) ∧
      (answer p k x (freeIfDone n s)).table.completion = s.table.completion ∧
      (answer p k x (freeIfDone n s)).table.reprint = s.table.reprint := by
  have table := freeIfDone_table found
  by_cases done : r.reported = true ∧ n ∉ s.table.reprint
  · have freed : freeIfDone n s = (freeHanded n (dropRecord n s)).askAwait := by
      unfold freeIfDone
      rw [found]
      dsimp only
      rw [if_pos (by simpa using done)]
    have ev : (freeIfDone n s).ev = { s.ev with awaitExam := true } := by rw [freed]; rfl
    rw [fresh] at ev
    have gone : (freeIfDone n s).findSet n = none := by
      unfold State.findSet
      rw [table, if_pos done]
      simp
    obtain ⟨completion, reprint⟩ := answer_outcomes (p := p) (k := k) (r := x) (s := freeIfDone n s) (by rw [ev]; rfl)
      (by rw [ev]; rfl)
    rw [if_pos done] at table ⊢
    rw [answer_findSet, settle_findSet n (by rw [ev]; rfl), gone, completion, reprint, table]
    · exact ⟨rfl, rfl, rfl⟩
    · rintro _ x held - rfl
      rw [(heldRec_found held).1] at gone
      cases gone
  · have kept : freeIfDone n s = s := by
      unfold freeIfDone
      rw [found]
      dsimp only
      rw [if_neg (by simpa using done)]
    obtain ⟨completion, reprint⟩ := answer_outcomes (p := p) (k := k) (r := x) (s := s) (by rw [fresh]; rfl)
      (by rw [fresh]; rfl)
    rw [kept, if_neg done, completion, reprint, answer_findSet, settle_idle (by rw [fresh]; rfl) (by rw [fresh]; rfl)
      (by rw [fresh]; rfl) (by rw [fresh]; rfl)]
    exact ⟨found, rfl, rfl⟩

/-- Settles O26: the head leaves its list, and its record is freed when it is reported and in no list. -/
theorem collectingRequestsReturnTheHead : Obligations.CollectingRequestsReturnTheHead := by
  unfold Obligations.CollectingRequestsReturnTheHead
  refine fun s => ⟨fun asks none => ?_, fun asks none => ?_, fun n rest r found => ⟨fun asks head => ?_,
    fun asks head once => ?_⟩⟩
  · rw [exec_takeCompletion, asks.refused (r := .none)]
    simp only [takeCompletionRule, withEmptyBody]
    rw [show (popRequest .job s).begin.table.completion = [] from none]
  · rw [exec_takeReprint, asks.refused (r := .none)]
    simp only [takeReprintRule, withEmptyBody]
    rw [show (popRequest .job s).begin.table.reprint = [] from none]
  · obtain ⟨rule, reported, table⟩ := takeCompletionRule_head (s := (popRequest .job s).begin) head found
    obtain ⟨run, replied⟩ := asks.run rule
    obtain ⟨after, completion, reprint⟩ := answer_freeIfDone (p := .job) (k := RequestKind.takeCompletion.code)
      (x := { result := .done, data := recordBytes { r with reported := true } }) reported rfl
    rw [table] at after completion reprint
    refine ⟨_, run, replied, completion, reprint, fun listed => ?_, fun out => ?_⟩
    · rw [after, if_neg fun e => e.2 listed]
    · rw [after, if_pos ⟨rfl, out⟩]
  · obtain ⟨run, replied⟩ := asks.run (takeReprintRule_head (s := (popRequest .job s).begin) head found)
    obtain ⟨after, completion, reprint⟩ := answer_freeIfDone (p := .job) (k := RequestKind.takeReprint.code)
      (x := { result := .done, data := reprintBytes r })
      (s := (popRequest .job s).begin.setTable { (popRequest .job s).begin.table with reprint := rest }) found rfl
    refine ⟨_, run, replied, reprint, completion, fun unreported => ?_, fun reported => ?_⟩
    · rw [after, if_neg fun e => by rw [unreported] at e; cases e.1]
    · rw [after, if_pos ⟨reported, once⟩]

end Sys2Proof.Machine
end

section
/-! PROOFS. START, the readiness requests and the answers to an offer (sections 8.5, 8.6 and 9.2); and what a fault cause
does to a set that the machine still holds (section 1.4). -/

namespace Sys2Proof.Machine

variable {s t u : State}

/-! ### START (R155) -/

theorem startRule_grants (profile : s.table.profileLoaded = true) (geometry : s.line.geometryLoaded = true)
    (guard : s.line.guard = .closed) (stopped : s.line.state = .stopped) :
    startRule [] s = (grantStart s, .plain .done) := by
  simp [startRule, withEmptyBody, profile, geometry, guard, stopped]

theorem restartHunt_same (s : State) : SameExcept [.reader] s (restartHunt s) := by
  unfold restartHunt
  split
  · exact setReader_same _
  · exact .refl s

theorem restartHunt_hunting (h : s.reader.state = .hunt) :
    (restartHunt s).reader = { s.reader with huntStart := s.web.position } := by
  unfold restartHunt
  rw [h]
  rfl

theorem restartHunt_locked (h : s.reader.state = .locked) : restartHunt s = s := by
  unfold restartHunt
  rw [h]

/-- The line set RUNNING, its flags cleared and the hunt started afresh. -/
def granted (s : State) : State := restartHunt (clearFlags (s.setLine { s.line with state := .running }))

theorem granted_same (s : State) : SameExcept [.web, .reader, .line] s (granted s) :=
  ((setLine_same _).comp (setWeb_same _) (n := [.web, .line]) (by decide) (by decide)).comp (restartHunt_same _)
    (by decide) (by decide)

theorem granted_line (s : State) : (granted s).line = { s.line with state := .running } :=
  restartHunt_same _ .line (by decide)

theorem granted_web (s : State) : (granted s).web = { s.web with reverse := false, speedHigh := false } :=
  restartHunt_same _ .web (by decide)

theorem grantStart_eq (s : State) : grantStart s =
    if s.line.holds = HoldSet.none then granted s else raiseCond .holdChanged (.holdSet s.line.holds) (granted s) := rfl

theorem grantStart_raised (s : State) : SameExcept [.links, .ev] (granted s) (grantStart s) ∧
    OnlyRaised (granted s) (grantStart s) := by
  rw [grantStart_eq]
  split
  · exact ⟨.refl _, .refl _⟩
  · exact ⟨raiseCond_same _ _ _, raiseCond_onlyRaised _ _ _⟩

theorem granted_locked (h : s.reader.state = .locked) : (granted s).reader = s.reader := by
  unfold granted
  rw [restartHunt_locked (s := clearFlags (s.setLine { s.line with state := .running })) h]
  rfl

theorem grantStart_holding (h : s.line.holds ≠ HoldSet.none) : (grantStart s).isPending .holdChanged = true := by
  rw [grantStart_eq, if_neg h]
  exact raiseCond_self_pending _ _ _

/-- Settles O27: the grant sets the line RUNNING, clears the flags, starts a hunt afresh and raises HOLD_CHANGED. -/
theorem startGrantsTheRun : Obligations.StartGrantsTheRun := by
  unfold Obligations.StartGrantsTheRun
  intro s asks profile geometry guard stopped
  obtain ⟨run, replied⟩ := asks.run (startRule_grants (s := (popRequest .line s).begin) profile geometry guard stopped)
  obtain ⟨raised, asked⟩ := grantStart_raised (popRequest .line s).begin
  have before := granted_same (popRequest .line s).begin
  have settled : Settled (grantStart (popRequest .line s).begin) :=
    ((OnlyRaised.of_same before (by decide)).trans asked).settled
  have after : SameExcept [.links, .ev] (granted (popRequest .line s).begin) _ :=
    raised.comp (answer_of_settled (p := .line) (k := RequestKind.start.code) (r := .plain .done) settled) (by decide)
      (by decide)
  have line := (after .line (by decide)).trans (granted_line (popRequest .line s).begin)
  have reader := after .reader (by decide)
  refine ⟨_, run, replied, ?_, line, (after .web (by decide)).trans (granted_web _), fun hunt => ?_, fun locked => ?_,
    fun holds => ?_, ?_⟩
  · unfold State.permit
    rw [line]
    rfl
  · exact reader.trans (restartHunt_hunting hunt)
  · exact reader.trans (granted_locked locked)
  · refine ⟨?_, ?_⟩
    · rw [answer_pending_of_settled settled]
      exact grantStart_holding holds
    · unfold State.holdLine
      rw [line]
      exact decide_eq_true holds
  · exact ((begun_same .line s).comp before (n := [.links, .web, .reader, .line, .ev]) (by decide) (by decide)).comp after
      (by decide) (by decide)

/-! ### Readiness (R145) -/

theorem exec_setReady (s : State) : exec .setReady s = .next (takeRequest .delivery .setReady setReadyRule s) := rfl

theorem exec_setNotReady (s : State) :
    exec .setNotReady s = .next (takeRequest .delivery .setNotReady setNotReadyRule s) := rfl

theorem setReadyRule_ready (h : s.belt.readiness = .ready) : setReadyRule [] s = (s, .plain .done) := by
  simp only [setReadyRule, withEmptyBody, h]

theorem setReadyRule_notReady (h : s.belt.readiness = .notReady) :
    setReadyRule [] s = (offerWaiting (s.setBelt { s.belt with readiness := .ready }), .plain .done) := by
  simp only [setReadyRule, withEmptyBody, h]

theorem offerWaiting_none (h : s.belt.atEnd = false) : offerWaiting s = s := by
  unfold offerWaiting
  split
  · rw [if_neg fun e => by rw [h] at e; cases e.1]
  · rfl

theorem offerWaiting_head {n : Nat} {rest : List Nat} (queue : s.belt.queue = n :: rest) (atEnd : s.belt.atEnd = true)
    (onBelt : s.setState n = some .onBelt) : offerWaiting s = makeOffer n s := by
  unfold offerWaiting
  rw [queue]
  exact if_pos ⟨atEnd, onBelt⟩

theorem makeOffer_belt (n : Nat) (s : State) : (makeOffer n s).belt =
    { s.belt with offered := some n, offerTimer := some (s.line.geometry.offerTimeout * 1000) } :=
  raiseCond_same _ _ _ .belt (by decide)

theorem makeOffer_onlyRaised (n : Nat) (s : State) : OnlyRaised s (makeOffer n s) := raiseCond_onlyRaised _ _ _

theorem makeOffer_pending (n : Nat) (s : State) : (makeOffer n s).isPending .offer = true := raiseCond_self_pending _ _ _

theorem makeOffer_findSet {n : Nat} {r : SetRec} (found : s.findSet n = some r) (alive : r.state.terminal = false) :
    (makeOffer n s).findSet n = some { r with state := .offered } :=
  (raiseCond_findSet _ _ _ n).trans (findSet_putSetState_self .offered (s := s.setBelt
    { s.belt with offered := some n, offerTimer := msTimer s.line.geometry.offerTimeout }) found alive)

/-- Settles O32: readiness is set; a head that waits at the belt end is offered. -/
theorem readinessRequestsSetReadiness : Obligations.ReadinessRequestsSetReadiness := by
  unfold Obligations.ReadinessRequestsSetReadiness
  refine fun s => ⟨fun asks => ?_, fun asks => ⟨fun ready => ?_, fun notReady away => ?_,
    fun n rest notReady queue atEnd onBelt => ?_⟩⟩
  · rw [exec_setNotReady, asks.exact (rule := setNotReadyRule) (r := .plain .done) rfl rfl rfl rfl rfl]
    rfl
  · rw [exec_setReady, asks.exact (setReadyRule_ready ready) rfl rfl rfl rfl]
    rfl
  · have rule := setReadyRule_notReady (s := (popRequest .delivery s).begin) notReady
    rw [offerWaiting_none (s := (popRequest .delivery s).begin.setBelt
      { (popRequest .delivery s).begin.belt with readiness := .ready }) away] at rule
    rw [exec_setReady, asks.exact rule rfl rfl rfl rfl]
    rfl
  · have rule := setReadyRule_notReady (s := (popRequest .delivery s).begin) notReady
    rw [offerWaiting_head (s := (popRequest .delivery s).begin.setBelt
      { (popRequest .delivery s).begin.belt with readiness := .ready }) queue atEnd onBelt] at rule
    obtain ⟨run, replied⟩ := asks.run rule
    have settled : Settled (makeOffer n ((popRequest .delivery s).begin.setBelt
        { (popRequest .delivery s).begin.belt with readiness := .ready })) :=
      ((OnlyRaised.of_same (setBelt_same _) (by decide)).trans (makeOffer_onlyRaised _ _)).settled
    have after := answer_of_settled (p := .delivery) (k := RequestKind.setReady.code) (r := .plain .done) settled
    obtain ⟨r, found, state⟩ := Option.map_eq_some_iff.mp onBelt
    refine ⟨_, run, replied, ?_, ?_, ?_, ?_⟩
    · exact (after .belt (by decide)).trans (makeOffer_belt _ _)
    · unfold State.setState
      rw [answer_findSet_of_settled settled]
      exact congrArg (Option.map SetRec.state) (makeOffer_findSet (s := (popRequest .delivery s).begin.setBelt
        { (popRequest .delivery s).begin.belt with readiness := .ready }) (r := r) found (by rw [state]; rfl))
    · rw [answer_pending_of_settled settled]
      exact makeOffer_pending _ _
    · exact (((begun_same .delivery s).comp (setBelt_same _) (n := [.links, .belt, .ev]) (by decide) (by decide)).comp
        (makeOffer_same n _) (n := [.links, .table, .belt, .ev]) (by decide) (by decide)).comp after (by decide)
        (by decide)

/-! ### ACCEPT (R147) -/

theorem acceptRule_offered {body : List Byte} {n : Nat} (parsed : parseSetNumber body = some n)
    (offered : s.belt.offered = some n) : acceptRule body s = (acceptOffer n s, .plain .done) := by
  simp [acceptRule, withSetNumber, parsed, offered]

theorem endOffer_pending (s : State) : (endOffer s).isPending .offer = false := by
  unfold endOffer
  rw [removeCond_pending]
  simp

/-- The offered set becomes DELIVERED. -/
theorem makeTerminal_found {n : Nat} {r : SetRec} (x : SetState) (found : s.findSet n = some r)
    (alive : r.state.terminal = false) : (makeTerminal n x s).findSet n = some { r with state := x } := by
  rw [makeTerminal_open x found alive]
  exact findSet_putSetState_self x found alive

theorem makeTerminal_ev {n : Nat} {r : SetRec} (x : SetState) (found : s.findSet n = some r)
    (alive : r.state.terminal = false) :
    (makeTerminal n x s).ev = { s.ev with ended := s.ev.ended ++ [n], awaitExam := true } := by
  rw [makeTerminal_open x found alive]
  rfl

theorem makeTerminal_line {n : Nat} {r : SetRec} (x : SetState) (found : s.findSet n = some r)
    (alive : r.state.terminal = false) :
    (makeTerminal n x s).line = { s.line with tally := s.line.tally.ended x } := by
  rw [makeTerminal_open x found alive]
  rfl

theorem makeTerminal_queues {n : Nat} {r : SetRec} (x : SetState) (found : s.findSet n = some r)
    (alive : r.state.terminal = false) :
    (makeTerminal n x s).table.completion = s.table.completion ∧ (makeTerminal n x s).table.reprint = s.table.reprint := by
  rw [makeTerminal_open x found alive]
  exact ⟨rfl, rfl⟩

/-- The belt freed of its head, after which a hand-over may start, leaves an ended set as it is. -/
theorem examHandOver_ended {n : Nat} {r : SetRec} (found : s.findSet n = some r) (ended : r.state.terminal = true) :
    (examHandOver s).findSet n = some r := by
  rw [examHandOver_findSet s n, found]
  rintro x held collected rfl
  rw [(heldRec_found held).1] at found
  cases found
  rw [collected] at ended
  cases ended

theorem examHandOver_belt (s : State) : (examHandOver s).belt = s.belt := examHandOver_same s .belt (by decide)

/-- An accepted offer ends its set, which is no set to reprint. -/
theorem acceptOffer_endsOne {n : Nat} {r : SetRec} (found : s.findSet n = some r) (alive : r.state.terminal = false)
    (fresh : s.ev = Event.none) : EndsOne n { r with state := .delivered } (acceptOffer n s) where
  found := examHandOver_ended (s := leaveBelt (endOffer (makeTerminal n .delivered s)))
    (makeTerminal_found .delivered found alive) rfl
  terminal := rfl
  noReprint := rfl
  ended := by
    have asked := examHandOver_onlyRaised (leaveBelt (endOffer (makeTerminal n .delivered s)))
    show (examHandOver _).ev.ended = _
    rw [asked]
    show (makeTerminal n .delivered s).ev.ended = _
    rw [makeTerminal_ev .delivered found alive, fresh]
    rfl
  noPlan := by
    have asked := examHandOver_onlyRaised (leaveBelt (endOffer (makeTerminal n .delivered s)))
    show (examHandOver _).ev.planWanted = _
    rw [asked]
    show (makeTerminal n .delivered s).ev.planWanted = _
    rw [makeTerminal_ev .delivered found alive, fresh]
    rfl

theorem acceptOffer_same (n : Nat) (s : State) :
    SameExcept [.links, .table, .track, .acc, .folder, .belt, .line, .ev] s (acceptOffer n s) :=
  (((makeTerminal_same n .delivered s).comp (endOffer_same _) (n := [.links, .table, .track, .belt, .line, .ev]) (by decide)
    (by decide)).comp (leaveBelt_same _) (n := [.links, .table, .track, .belt, .line, .ev]) (by decide) (by decide)).comp
    (examHandOver_same _) (by decide) (by decide)

theorem acceptOffer_belt (n : Nat) (s : State) : (acceptOffer n s).belt.queue = s.belt.queue.tail ∧
    (acceptOffer n s).belt.offered = none ∧ (acceptOffer n s).belt.offerTimer = none := by
  unfold acceptOffer
  rw [examHandOver_belt]
  have kept : (makeTerminal n .delivered s).belt = s.belt := makeTerminal_same n .delivered s .belt (by decide)
  refine ⟨?_, rfl, rfl⟩
  show (makeTerminal n .delivered s).belt.queue.tail = _
  rw [kept]

theorem acceptOffer_offer (n : Nat) (s : State) : (acceptOffer n s).isPending .offer = false := by
  unfold acceptOffer
  rw [examHandOver_keepsPending _ .offer rfl]
  exact endOffer_pending _

/-- The queues and the tally as an accepted offer leaves them, before its set joins the Completion Order. -/
theorem acceptOffer_outcomes {n : Nat} {r : SetRec} (found : s.findSet n = some r) (alive : r.state.terminal = false) :
    (acceptOffer n s).table.completion = s.table.completion ∧ (acceptOffer n s).table.reprint = s.table.reprint ∧
      (acceptOffer n s).line.tally = { s.line.tally with setsDelivered := satInc s.line.tally.setsDelivered } := by
  have keeps := examHandOver_keepsOutcomes (leaveBelt (endOffer (makeTerminal n .delivered s)))
  obtain ⟨completion, reprint⟩ := makeTerminal_queues .delivered found alive
  have line := makeTerminal_line .delivered found alive
  refine ⟨keeps.completion.trans completion, keeps.reprint.trans reprint, keeps.tally.trans ?_⟩
  show (makeTerminal n .delivered s).line.tally = _
  rw [line]
  rfl

/-! ### A cause recorded against a set that the machine holds (R6) -/

theorem wasteSheets_idle {n : Nat} (none : NoneToTurn n s) : wasteSheets n s = s := by
  have same : (s.track.list.map fun e => if turns n e then { e with disposition := .waste } else e) = s.track.list := by
    refine (List.map_congr_left fun e mem => ?_).trans (List.map_id _)
    rw [none e mem]
    rfl
  unfold wasteSheets
  rw [same]
  rfl

theorem turnToWaste_idle {n : Nat} (none : NoneToTurn n s) : turnToWaste n s = s := by
  have earlier : turnsEarlier n s = false := by
    unfold turnsEarlier
    rw [List.any_eq_false]
    intro e mem
    rw [none e mem]
    simp
  unfold turnToWaste
  rw [earlier, if_neg (by simp)]
  exact wasteSheets_idle none

theorem testDiverted_held {n : Nat} (held : holdsSet s n = true) : testDiverted n s = s :=
  if_neg fun e => by rw [held] at e; cases e.2

theorem stopHoldOf_acc (n : Nat) (s : State) : (stopHoldOf n s).acc =
    { s.acc with holdTimer := if s.acc.held = some n then none else s.acc.holdTimer } := by
  unfold stopHoldOf
  split <;> rfl

/-- A set that the machine holds, none of its sheets still to turn, takes its cause: it is REJECTING, its hold timer
stands, the reading set reference follows, and the dump is to be examined. -/
theorem holdsSet_congr (list : t.track.list = s.track.list) (held : t.acc.held = s.acc.held)
    (others : t.acc.others = s.acc.others) (folder : t.folder = s.folder) (belt : t.belt = s.belt) (n : Nat) :
    holdsSet t n = holdsSet s n := by
  unfold holdsSet
  rw [list, held, others, folder, belt]

theorem holdsSet_of_station {n : Nat} (held : s.acc.held = some n ∨ s.folder.set = some n ∨ n ∈ s.belt.queue) :
    holdsSet s n = true := by
  unfold holdsSet
  rcases held with h | h | h
  · simp [h]
  · simp [h]
  · simp [h]

theorem holdsSet_of_sheet {n : Nat} {e : SheetEntry} (mem : e ∈ s.track.list) (set : e.set = some n) :
    holdsSet s n = true := by
  have sheet : (s.track.list.any fun e => e.set == some n) = true := List.any_eq_true.2 ⟨e, mem, by simp [set]⟩
  unfold holdsSet
  simp [sheet]

theorem recordCause_holding {n : Nat} {r : SetRec} (c : SetCause) (i : Option Nat) (found : s.findSet n = some r)
    (opens : r.open = true) (none : NoneToTurn n s) (holding : holdsSet s n = true) :
    recordCause n c i s = (followRef n (stopHoldOf n (updateSet n (SetRec.fail c i) s))).askDump := by
  have stop := stopHoldOf_same n (updateSet n (SetRec.fail c i) s)
  have list : (followRef n (stopHoldOf n (updateSet n (SetRec.fail c i) s))).track.list = s.track.list := by
    have track : (stopHoldOf n (updateSet n (SetRec.fail c i) s)).track = s.track := stop .track (by decide)
    show (stopHoldOf n _).track.list = _
    rw [track]
  have holds : holdsSet (followRef n (stopHoldOf n (updateSet n (SetRec.fail c i) s))) n = true := by
    have acc : (followRef n (stopHoldOf n (updateSet n (SetRec.fail c i) s))).acc =
        { s.acc with holdTimer := if s.acc.held = some n then Option.none else s.acc.holdTimer } := stopHoldOf_acc n _
    rw [holdsSet_congr list (by rw [acc]) (by rw [acc]) (stop .folder (by decide)) (stop .belt (by decide))]
    exact holding
  unfold recordCause
  rw [found]
  dsimp only
  rw [if_pos opens, turnToWaste_idle fun e mem => none e (list ▸ mem)]
  exact testDiverted_held holds

/-- What a cause so recorded does to the parts. -/
structure Rejects (n : Nat) (c : SetCause) (i : Option Nat) (r : SetRec) (s t : State) : Prop where
  found : t.findSet n = some { r with state := .rejecting, cause := some c, failingStep := i }
  acc : t.acc = { s.acc with holdTimer := if s.acc.held = some n then none else s.acc.holdTimer }
  ev : t.ev = { s.ev with dumpExam := true }
  list : t.track.list = s.track.list
  same : SameExcept [.table, .acc, .track, .ev] s t

theorem SetRec.fail_number (c : SetCause) (i : Option Nat) (r : SetRec) : (r.fail c i).number = r.number := by
  unfold SetRec.fail
  split <;> rfl

theorem recordCause_holding_rejects {n : Nat} {r : SetRec} (c : SetCause) (i : Option Nat) (found : s.findSet n = some r)
    (opens : r.open = true) (none : NoneToTurn n s)
    (holding : holdsSet s n = true) :
    Rejects n c i r s (recordCause n c i s) := by
  have stop := stopHoldOf_same n (updateSet n (SetRec.fail c i) s)
  rw [recordCause_holding c i found opens none holding]
  refine ⟨?_, stopHoldOf_acc n _, ?_, ?_, ?_⟩
  · have failed := findSet_updateSet_self (SetRec.fail c i) (SetRec.fail_number c i) found
    refine (findSet_of_table (stop .table (by decide)) n).trans (failed.trans ?_)
    unfold SetRec.fail
    rw [if_pos opens]
  · show { (stopHoldOf n _).ev with dumpExam := true } = _
    rw [stop .ev (by decide)]
    rfl
  · have track : (stopHoldOf n (updateSet n (SetRec.fail c i) s)).track = s.track := stop .track (by decide)
    show (stopHoldOf n _).track.list = _
    rw [track]
  · exact (((updateSet_same _ _ _).comp stop (n := [.table, .acc]) (by decide) (by decide)).comp (setTrack_same _)
      (n := [.table, .acc, .track]) (by decide) (by decide)).comp (setEv_same _) (by decide) (by decide)

theorem recordCause_rejects {n : Nat} {r : SetRec} (c : SetCause) (i : Option Nat) (found : s.findSet n = some r)
    (opens : r.open = true) (none : NoneToTurn n s)
    (held : s.acc.held = some n ∨ s.folder.set = some n ∨ n ∈ s.belt.queue) :
    Rejects n c i r s (recordCause n c i s) :=
  recordCause_holding_rejects c i found opens none (holdsSet_of_station held)

/-- At the end of an event that asked only for the dump to be examined, that is done. -/
theorem settle_dump (ended : s.ev.ended = []) (plan : s.ev.planWanted = false) (await : s.ev.awaitExam = false) :
    settle s = examDumpIf s := by
  have asked : examAsked s = examDumpIf s := by
    unfold examAsked
    rw [await, if_neg (by simp)]
  have none : (examDumpIf s).ev.ended = [] := by
    unfold examDumpIf
    split
    · rw [examDump_onlyRaised s]; exact ended
    · exact ended
  unfold settle
  rw [replan_idle plan, asked]
  unfold flushEnded
  rw [none]
  show (examDumpIf s).setEv { (examDumpIf s).ev with ended := [] } = _
  rw [← none]
  rfl

/-- What an answer to a request that only asked for the dump to be examined leaves. -/
theorem answer_dump {p : Port} {k : Byte} {r : Reply} (ev : s.ev = { Event.none with dumpExam := true }) :
    SameExcept [.links, .acc, .line, .ev] s (answer p k r s) ∧ ∀ n, (answer p k r s).findSet n = s.findSet n := by
  have settled := settle_dump (s := s) (by rw [ev]; rfl) (by rw [ev]; rfl) (by rw [ev]; rfl)
  have answered := answer_same p k r s
  rw [settled] at answered
  refine ⟨(examDumpIf_same s).comp answered (by decide) (by decide), fun n => ?_⟩
  rw [answer_findSet, settled, examDumpIf_findSet]

/-! ### The belt gate (R143) -/

/-- What a wanted belt gate stroke makes of the belt: it starts when GUARD is closed and none is in flight. -/
structure GateWanted (g : Guard) (timeout : Nat) (b b' : Delivery) : Prop where
  only : b' = { b with strokeWanted := b'.strokeWanted, stroke := b'.stroke, gateTimeout := b'.gateTimeout }
  starts : g = .closed → b.stroke = false → b'.stroke = true ∧ b'.gateTimeout = some (timeout * 1000)
  waits : g = .opened → b'.strokeWanted = true

theorem wantBeltGate_wanted (s : State) :
    GateWanted s.line.guard s.line.geometry.actuatorTimeout s.belt (wantBeltGate s).belt := by
  refine ⟨?_, fun closed free => ?_, fun opened => ?_⟩
  · unfold wantBeltGate examBeltGate
    split <;> rfl
  · unfold wantBeltGate examBeltGate
    rw [if_pos (by simp [closed, free])]
    exact ⟨rfl, rfl⟩
  · unfold wantBeltGate examBeltGate
    rw [if_neg (by simp [opened])]
    rfl

/-! ### The answers to an offer (R147, R148) -/

theorem refuseRule_offered {body : List Byte} {n code : Nat} (parsed : parseRefuse body = some (n, code))
    (offered : s.belt.offered = some n) : refuseRule body s = (refuseOffer n code s, .plain .done) := by
  simp [refuseRule, parsed, offered]

theorem routeIndex_found {n : Nat} {r : SetRec} (found : s.findSet n = some r) :
    routeIndex n s = stepIndex .route r.program := by
  unfold routeIndex
  rw [found]
  rfl

/-- A refused offer: the set takes REFUSED with the refuse code, and a belt gate stroke is wanted. -/
theorem refuseOffer_refuses {n code : Nat} {r : SetRec} (found : s.findSet n = some r) (state : r.state = .offered)
    (good : r.cause = none) (none : NoneToTurn n s) (head : s.belt.queue.head? = some n) (fresh : s.ev = Event.none) :
    (refuseOffer n code s).findSet n = some
        { r with state := .rejecting, cause := some .refused, failingStep := stepIndex .route r.program,
                 refuseCode := some code } ∧
      (refuseOffer n code s).ev = { Event.none with dumpExam := true } ∧
      SameExcept [.links, .table, .track, .acc, .belt, .ev] s (refuseOffer n code s) ∧
      GateWanted s.line.guard s.line.geometry.actuatorTimeout
        { s.belt with offered := Option.none, offerTimer := Option.none } (refuseOffer n code s).belt := by
  have opens : r.open = true := by simp [SetRec.open, state, good, SetState.mayFail]
  have rejects := recordCause_rejects (s := endOffer s) (r := r) .refused (routeIndex n s) found opens none
    (.inr (.inr (List.mem_of_mem_head? head)))
  have ended := endOffer_same s
  have coded := findSet_updateSet_self (fun r : SetRec => { r with refuseCode := some code }) (fun _ => rfl) rejects.found
  have wants := wantBeltGate_wanted (updateSet n (fun r => { r with refuseCode := some code })
    (recordCause n .refused (routeIndex n s) (endOffer s)))
  have wanted := wantBeltGate_same (updateSet n (fun r => { r with refuseCode := some code })
    (recordCause n .refused (routeIndex n s) (endOffer s)))
  have line : (recordCause n .refused (routeIndex n s) (endOffer s)).line = s.line := rejects.same .line (by decide)
  have belt : (recordCause n .refused (routeIndex n s) (endOffer s)).belt =
      { s.belt with offered := Option.none, offerTimer := Option.none } := rejects.same .belt (by decide)
  rw [routeIndex_found found] at coded
  refine ⟨(findSet_of_table (wanted .table (by decide)) n).trans ?_, ?_, ?_, ?_⟩
  · rw [routeIndex_found found]; exact coded
  · refine (wanted .ev (by decide)).trans ?_
    show (recordCause n .refused (routeIndex n s) (endOffer s)).ev = _
    rw [rejects.ev]
    show { s.ev with dumpExam := true } = _
    rw [fresh]
  · exact ((ended.comp rejects.same (n := [.links, .table, .track, .acc, .belt, .ev]) (by decide) (by decide)).comp
      (updateSet_same _ _ _) (n := [.links, .table, .track, .acc, .belt, .ev]) (by decide) (by decide)).comp wanted
      (by decide) (by decide)
  · have moved : GateWanted (recordCause n .refused (routeIndex n s) (endOffer s)).line.guard
        (recordCause n .refused (routeIndex n s) (endOffer s)).line.geometry.actuatorTimeout
        (recordCause n .refused (routeIndex n s) (endOffer s)).belt (refuseOffer n code s).belt := wants
    rw [line, belt] at moved
    exact moved

/-- Settles O33: ACCEPT ends the set; REFUSE rejects it and wants a belt gate stroke. -/
theorem offerIsAnswered : Obligations.OfferIsAnswered := by
  unfold Obligations.OfferIsAnswered
  refine fun body n r s offered found => ⟨fun asks parsed alive => ?_, fun code asks parsed head state good none => ?_⟩
  · obtain ⟨run, replied⟩ := asks.run (acceptRule_offered (s := (popRequest .delivery s).begin) parsed offered)
    have ends := acceptOffer_endsOne (s := (popRequest .delivery s).begin) found alive rfl
    have plan := ends.noPlan
    obtain ⟨found', completion, reprint, tally⟩ :=
      ends.answer_outcomes .delivery RequestKind.accept.code (.plain .done)
    obtain ⟨order, reprints, count⟩ := acceptOffer_outcomes (s := (popRequest .delivery s).begin) found alive
    obtain ⟨queue, offer, timer⟩ := acceptOffer_belt n (popRequest .delivery s).begin
    have after : SameExcept [.links, .table, .acc, .folder, .line, .ev] (acceptOffer n (popRequest .delivery s).begin) _ :=
      (settle_same plan).comp (answer_same .delivery RequestKind.accept.code (.plain .done) _) (by decide) (by decide)
    have belt := after .belt (by decide)
    refine ⟨_, run, replied, found', completion.trans (congrArg (· ++ [n]) order), reprint.trans reprints, ?_, ?_, ?_, ?_,
      tally.trans count, ?_⟩
    · rw [belt]; exact queue
    · rw [belt]; exact offer
    · rw [belt]; exact timer
    · rw [answer_pending, settle_keepsPending _ .offer rfl]
      exact acceptOffer_offer n _
    · exact ((begun_same .delivery s).comp (acceptOffer_same n _)
        (n := [.links, .table, .track, .acc, .folder, .belt, .line, .ev]) (by decide) (by decide)).comp after (by decide)
        (by decide)
  · have parsed' := refuseRule_offered (s := (popRequest .delivery s).begin) parsed offered
    obtain ⟨run, replied⟩ := asks.run parsed'
    obtain ⟨refused, ev, same, gate⟩ :=
      refuseOffer_refuses (s := (popRequest .delivery s).begin) (code := code) found state good none head rfl
    obtain ⟨after, kept⟩ := answer_dump (p := .delivery) (k := RequestKind.refuse.code) (r := .plain .done) ev
    have belt := after .belt (by decide)
    refine ⟨_, run, replied, (kept n).trans refused, ?_, ?_, ?_, fun closed free => ?_, fun opened => ?_, ?_, ?_⟩
    · rw [belt, gate.only]
    · rw [belt, gate.only]
    · rw [belt, gate.only]; rfl
    · rw [belt]; exact gate.starts closed free
    · rw [belt]; exact gate.waits opened
    · exact (after .web (by decide)).trans (same .web (by decide))
    · exact (after .reader (by decide)).trans (same .reader (by decide))

end Sys2Proof.Machine
end

section
/-! PROOFS. The events of the accumulator (chapter 6): the timeouts, the dump, the hand-over, the strokes and the jog
interval. -/

namespace Sys2Proof.Machine

variable {s t u v : State} {rule : State → State}

/-! ### Events that only raise conditions, and events that fault the line -/

theorem input_open (rule : State → State) (h : s.line.sweep = false) : input rule s = event rule s := by
  unfold input
  rw [h, if_neg (by simp)]

/-- An event that asked for nothing leaves the records as its rule left them. -/
theorem event_findSet_of_settled (h : Settled (rule s.begin)) (n : Nat) :
    (event rule s).findSet n = (rule s.begin).findSet n := by rw [event_findSet, h.settle_eq]

/-- A line fault taken by an event's rule stands to the event's end. -/
theorem event_faultedWith {k : Option LineCause} {n : Option Nat} (h : FaultedWith k n (rule s.begin).line) :
    FaultedWith k n (event rule s).line :=
  Moves.faultedWith (c := .of .releaseTimeout) (g := false) (Moves.event rfl rule (.here _)) nofun nofun h

theorem lineFault_faultedWith (k : LineCause) (n : Option Nat) (h : s.line.state ≠ .faulted) :
    FaultedWith (some k) n (lineFault k n s).line := by
  rw [lineFault_enters k n h]
  exact ⟨rfl, rfl, rfl⟩

/-- An event whose rule changes some state v, asking for nothing, and then faults the line. -/
theorem event_faults {k : LineCause} {n : Option Nat} (h : s.line.state ≠ .faulted) (e : rule s.begin = lineFault k n v)
    (asked : OnlyRaised s.begin v) (line : v.line = s.line) :
    FaultsWith k n s (event rule s) ∧ SameExcept [.links, .line, .ev] v (event rule s) := by
  have settled : Settled (rule s.begin) := by
    rw [e]
    exact (asked.trans (lineFault_onlyRaised k n v)).settled
  have same := event_of_settled settled
  have faulted : FaultedWith (some k) n (event rule s).line := by
    refine event_faultedWith ?_
    rw [e]
    exact lineFault_faultedWith k n (by rw [line]; exact h)
  rw [e] at same
  exact ⟨⟨h, faulted.state, faulted.cause, faulted.set⟩, (lineFault_same k n v).comp same (by decide) (by decide)⟩

/-! ### The timeouts (R116, R118, R119, R140, R143) -/

theorem recordCause_closed {n : Nat} (c : SetCause) (i : Option Nat) (h : ∀ r, s.findSet n = some r → r.open = false) :
    recordCause n c i s = s := by
  unfold recordCause
  split
  · rfl
  · rename_i r found
    rw [h r found, if_neg (by simp)]

/-- What a cause recorded against a set that the machine holds, none of its sheets still to turn, may change. -/
structure TakesCause (s t : State) : Prop where
  acc : t.acc = { s.acc with holdTimer := t.acc.holdTimer }
  ev : t.ev = { s.ev with dumpExam := t.ev.dumpExam }
  list : t.track.list = s.track.list
  same : SameExcept [.table, .acc, .track, .ev] s t

theorem recordCause_holding_takesCause {n : Nat} (c : SetCause) (i : Option Nat) (none : NoneToTurn n s)
    (holding : holdsSet s n = true) :
    TakesCause s (recordCause n c i s) := by
  by_cases opens : ∃ r, s.findSet n = some r ∧ r.open = true
  · obtain ⟨r, found, opens⟩ := opens
    have rejects := recordCause_holding_rejects c i found opens none holding
    exact ⟨by rw [rejects.acc], by rw [rejects.ev], rejects.list, rejects.same⟩
  · rw [recordCause_closed c i fun r found => Bool.eq_false_of_not_eq_true fun yes => opens ⟨r, found, yes⟩]
    exact ⟨rfl, rfl, rfl, .refl s⟩

theorem recordCause_takesCause {n : Nat} (c : SetCause) (i : Option Nat) (none : NoneToTurn n s)
    (held : s.acc.held = some n ∨ s.folder.set = some n ∨ n ∈ s.belt.queue) :
    TakesCause s (recordCause n c i s) :=
  recordCause_holding_takesCause c i none (holdsSet_of_station held)

/-- No dump starts while a release or a dump is in flight, or in an EMPTY accumulator. -/
theorem examDumpIf_busy (h : s.acc.state ≠ .collecting ∧ s.acc.state ≠ .complete) : examDumpIf s = s := by
  have due : dumpDue s = false := by
    unfold dumpDue
    simp [h.1, h.2]
  unfold examDumpIf examDump
  rw [due]
  split <;> rfl

theorem exec_releaseTimeout (s : State) : exec .releaseTimeout s = .next (event expireRelease s) := rfl
theorem exec_dumpTimeout (s : State) : exec .dumpTimeout s = .next (event expireDump s) := rfl
theorem exec_jogTimeout (s : State) : exec .jogTimeout s = .next (event expireJog s) := rfl
theorem exec_beltTravelExpiry (s : State) : exec .beltTravelExpiry s = .next (event expireTravel s) := rfl
theorem exec_beltGateTimeout (s : State) : exec .beltGateTimeout s = .next (event expireGate s) := rfl

theorem expireRelease_runs {n : Nat} (running : s.acc.releaseTimeout.isSome) (held : s.acc.held = some n) :
    expireRelease s = lineFault .jamAccumulator (some n)
      (recordCause n .missingSheet none (s.setAcc { s.acc with releaseTimeout := none })) := by
  obtain ⟨x, timer⟩ := Option.isSome_iff_exists.mp running
  unfold expireRelease
  rw [timer, held]
  rfl

theorem expireDump_runs (running : s.acc.dumpTimeout.isSome) :
    expireDump s = lineFault .jamAccumulator s.acc.held (s.setAcc { s.acc with dumpTimeout := none }) := by
  obtain ⟨x, timer⟩ := Option.isSome_iff_exists.mp running
  unfold expireDump
  rw [timer]

theorem expireJog_runs (running : s.acc.jogTimeout.isSome) :
    expireJog s = lineFault .jamJogger s.acc.held (s.setAcc { s.acc with jogTimeout := none }) := by
  obtain ⟨x, timer⟩ := Option.isSome_iff_exists.mp running
  unfold expireJog
  rw [timer]

theorem expireTravel_runs (running : s.belt.travel.isSome) :
    expireTravel s = lineFault .jamBelt s.belt.queue.head? (s.setBelt { s.belt with travel := none }) := by
  obtain ⟨x, timer⟩ := Option.isSome_iff_exists.mp running
  unfold expireTravel
  rw [timer]

theorem expireGate_runs (running : s.belt.gateTimeout.isSome) :
    expireGate s = lineFault .jamBelt s.belt.queue.head? (s.setBelt { s.belt with gateTimeout := none }) := by
  obtain ⟨x, timer⟩ := Option.isSome_iff_exists.mp running
  unfold expireGate
  rw [timer]

/-- A timeout that stops its timer, changes nothing else of its block and faults the line. -/
theorem event_times_out {k : LineCause} {n : Option Nat} {l : List Part} (h : s.line.state ≠ .faulted)
    (e : rule s.begin = lineFault k n v) (own : SameExcept l s.begin v) (inside : Part.line ∉ l ∧ Part.ev ∉ l) :
    FaultsWith k n s (event rule s) ∧ (∀ x, x ∉ [Part.links, .line, .ev] → x.same v (event rule s)) ∧
      SameExcept (.links :: .line :: .ev :: l) s (event rule s) := by
  obtain ⟨faults, same⟩ := event_faults h e (.of_same own inside.2) (own .line inside.1)
  refine ⟨faults, same, ?_⟩
  have begun : SameExcept [.ev] s s.begin := setEv_same _
  refine (begun.comp own (n := .ev :: l) ?_ ?_).comp same ?_ ?_
  all_goals intro x; simp only [List.mem_cons, List.not_mem_nil]; tauto

/-- What a cause recorded against a set that the machine holds, and a line fault with its number, change. -/
theorem faultCause_changes {n : Nat} (k : LineCause) (c : SetCause) (i : Option Nat) (none : NoneToTurn n v)
    (held : v.acc.held = some n ∨ v.folder.set = some n ∨ n ∈ v.belt.queue) (e : u = lineFault k (some n) (recordCause n c i v)) :
    u.acc = { v.acc with holdTimer := u.acc.holdTimer } ∧
      u.ev = { v.ev with raised := u.ev.raised, dumpExam := u.ev.dumpExam } ∧
      SameExcept [.links, .table, .acc, .track, .line, .ev] v u := by
  have takes := recordCause_takesCause c i none held
  have fault := lineFault_same k (some n) (recordCause n c i v)
  have asked := lineFault_onlyRaised k (some n) (recordCause n c i v)
  refine ⟨?_, ?_, ?_⟩
  · rw [e, fault .acc (by decide), takes.acc]
  · rw [e, asked, takes.ev]
  · rw [e]; exact takes.same.comp fault (by decide) (by decide)

/-- The release in flight when its timeout runs out: its set takes MISSING_SHEET, and it stays in flight. -/
theorem releaseTimeout_faults {n : Nat} (h : s.line.state ≠ .faulted) (running : s.acc.releaseTimeout.isSome)
    (releasing : s.acc.state = .releasing) (held : s.acc.held = some n) (none : NoneToTurn n s) :
    FaultsWith .jamAccumulator (some n) s (event expireRelease s) ∧
      (event expireRelease s).acc.releaseTimeout = Option.none ∧ (event expireRelease s).acc.state = .releasing ∧
      ∀ r, s.findSet n = some r → r.state = .folding → r.cause = Option.none →
        ∃ r', (event expireRelease s).findSet n = some r' ∧ r'.cause = some .missingSheet := by
  have rule := expireRelease_runs (s := s.begin) running held
  obtain ⟨acc, ev, -⟩ := faultCause_changes (v := s.begin.setAcc { s.begin.acc with releaseTimeout := Option.none })
    .jamAccumulator .missingSheet Option.none none (.inl held) rule
  have takes := recordCause_takesCause (n := n) (s := s.begin.setAcc { s.begin.acc with releaseTimeout := Option.none })
    .missingSheet Option.none none (.inl held)
  have state : (expireRelease s.begin).acc.state = .releasing := by rw [acc]; exact releasing
  have settled : settle (expireRelease s.begin) = expireRelease s.begin := by
    rw [settle_dump (by rw [ev]; rfl) (by rw [ev]; rfl) (by rw [ev]; rfl)]
    exact examDumpIf_busy (by rw [state]; exact ⟨nofun, nofun⟩)
  have same := event_same expireRelease s
  rw [settled] at same
  have after := same .acc (by decide)
  have faulted : FaultedWith (some .jamAccumulator) (some n) (event expireRelease s).line := by
    refine event_faultedWith ?_
    rw [rule]
    exact lineFault_faultedWith _ _ (by rw [takes.same .line (by decide)]; exact h)
  refine ⟨⟨h, faulted.state, faulted.cause, faulted.set⟩, ?_, ?_, fun r found folding good => ?_⟩
  · rw [after, acc]; rfl
  · rw [after, state]
  · have opens : r.open = true := by simp [SetRec.open, folding, good, SetState.mayFail]
    have rejects := recordCause_rejects (s := s.begin.setAcc { s.begin.acc with releaseTimeout := Option.none })
      .missingSheet Option.none found opens none (.inl held)
    have found' := (findSet_of_table (lineFault_same .jamAccumulator (some n) _ .table (by decide)) n).trans rejects.found
    rw [← rule, ← settled, ← event_findSet] at found'
    exact ⟨_, found', rfl⟩

/-- Settles O49: each timeout stops its timer and faults the line. -/
theorem timeoutsFaultTheLine : Obligations.TimeoutsFaultTheLine := by
  unfold Obligations.TimeoutsFaultTheLine
  refine fun s h => ⟨fun n running releasing held none =>
    ⟨_, exec_releaseTimeout s, releaseTimeout_faults h running releasing held none⟩, fun running => ?_, fun running => ?_,
    fun running => ?_, fun running => ?_⟩
  · obtain ⟨faults, part, same⟩ := event_times_out h (expireDump_runs (s := s.begin) running) (setAcc_same _) (by decide)
    exact ⟨_, exec_dumpTimeout s, faults, part .acc (by decide), same.mono (by decide)⟩
  · obtain ⟨faults, part, same⟩ := event_times_out h (expireJog_runs (s := s.begin) running) (setAcc_same _) (by decide)
    exact ⟨_, exec_jogTimeout s, faults, part .acc (by decide), same.mono (by decide)⟩
  · obtain ⟨faults, part, same⟩ := event_times_out h (expireTravel_runs (s := s.begin) running) (setBelt_same _) (by decide)
    exact ⟨_, exec_beltTravelExpiry s, faults, part .belt (by decide), same.mono (by decide)⟩
  · obtain ⟨faults, part, same⟩ := event_times_out h (expireGate_runs (s := s.begin) running) (setBelt_same _) (by decide)
    exact ⟨_, exec_beltGateTimeout s, faults, part .belt (by decide), same.mono (by decide)⟩

end Sys2Proof.Machine
end

section
/-! PROOFS. The stations of the accumulator (sections 6.2 to 6.6): hand-over, the dump, the jog strokes and the jog
interval. -/

namespace Sys2Proof.Machine

variable {s t u v : State}

/-! ### What each examination does to the accumulator -/

/-- The accumulator as a dump starts. -/
def Accumulator.dumpStarted (a : Accumulator) (ms : Nat) : Accumulator :=
  { a with state := .dumping, jogInterval := none, dumpTimeout := some (ms * 1000) }

/-- The accumulator as a release starts. -/
def Accumulator.releaseStarted (a : Accumulator) (ms : Nat) : Accumulator :=
  { a with state := .releasing, jogInterval := none, releaseTimeout := some (ms * 1000) }

/-- The accumulator as a stroke starts. -/
def Accumulator.strokeStarted (a : Accumulator) (full jogStep : Bool) (ms : Nat) : Accumulator :=
  { a with
    stroke := some { full := full, squaring := full && a.state == .complete, jogStep := jogStep }
    jogInterval := none
    jogTimeout := some (ms * 1000) }

theorem evalAccBlocked_acc (s : State) : (evalAccBlocked s).acc = s.acc := evalAccBlocked_same s .acc (by decide)

theorem startDump_acc (s : State) : (startDump s).acc = s.acc.dumpStarted s.line.geometry.actuatorTimeout :=
  evalAccBlocked_acc _

theorem examDump_starts (h : dumpDue s = true) : examDump s = startDump s := if_pos h

theorem examDump_waits (h : dumpDue s = false) : examDump s = s := if_neg (by simp [h])

theorem startStroke_acc (full jogStep : Bool) (s : State) :
    startStroke full jogStep s = s.setAcc (s.acc.strokeStarted full jogStep s.line.geometry.actuatorTimeout) := rfl

theorem examSquaring_waits (h : squaringWanted s = none) : examSquaring s = s := by
  unfold examSquaring
  rw [h]

theorem examSquaring_starts {jogStep : Bool} (h : squaringWanted s = some jogStep) (may : canStroke s = true) :
    examSquaring s = startStroke true jogStep s := by
  unfold examSquaring
  rw [h]
  exact if_pos may

theorem canStroke_eq_true (state : s.acc.state = .collecting ∨ s.acc.state = .complete) (free : s.acc.stroke = none)
    (closed : s.line.guard = .closed) : canStroke s = true := by
  unfold canStroke
  rcases state with state | state <;> simp [state, free, closed]

theorem canStroke_of_stroke {k : Stroke} (h : s.acc.stroke = some k) : canStroke s = false := by
  unfold canStroke
  simp [h]

theorem canStroke_of_state (h : s.acc.state ≠ .collecting ∧ s.acc.state ≠ .complete) : canStroke s = false := by
  unfold canStroke
  simp [h.1, h.2]

theorem squaringWanted_of_state (h : s.acc.state ≠ .complete) : squaringWanted s = none := by
  unfold squaringWanted
  split
  · rename_i state _
    exact absurd state h
  · rfl

theorem readySet_of_state (h : s.acc.state ≠ .complete) : readySet s = none := by
  unfold readySet
  split
  · rename_i state _
    exact absurd state h
  · rfl

theorem canHandOver_of_readySet (h : readySet s = none) : canHandOver s = false := by
  unfold canHandOver
  rw [h]

theorem examHandOver_waits (h : canHandOver s = false) : examHandOver s = s := by
  unfold examHandOver
  split
  · rw [if_neg (by simp [h])]
  · rfl

theorem examObligation_waits (h : canStroke s = false) : examObligation s = s := by
  unfold examObligation
  split
  · rfl
  · rw [h, if_neg (by simp)]

theorem heldRec_of_held {n : Nat} {r : SetRec} (held : s.acc.held = some n) (found : s.findSet n = some r) :
    s.heldRec = some r := by
  unfold State.heldRec
  rw [held]
  exact found

theorem readySet_ready {n : Nat} {r : SetRec} (complete : s.acc.state = .complete) (held : s.acc.held = some n)
    (found : s.findSet n = some r) (collected : r.state = .collected) (done : r.nextStep = none) : readySet s = some r := by
  unfold readySet
  rw [complete, heldRec_of_held held found]
  exact if_pos ⟨collected, done⟩

theorem canHandOver_ready (h : canHandOver s = true) : ∃ r, readySet s = some r := by
  unfold canHandOver at h
  split at h
  · cases h
  · rename_i r ready
    exact ⟨r, ready⟩

theorem examHandOver_starts {r : SetRec} (ready : readySet s = some r) (can : canHandOver s = true) :
    examHandOver s = startHandOver r s := by
  unfold examHandOver
  rw [ready]
  exact if_pos can

theorem startHandOver_acc (r : SetRec) (s : State) :
    (startHandOver r s).acc = s.acc.releaseStarted s.line.geometry.actuatorTimeout := evalAccBlocked_acc _

theorem startHandOver_folder (r : SetRec) (s : State) : (startHandOver r s).folder =
    { s.folder with handed := some { number := r.number, freed := false, kind := foldKindOf r.program } } :=
  evalAccBlocked_same _ .folder (by decide)

theorem startHandOver_found {n : Nat} {r : SetRec} (found : s.findSet n = some r) (collected : r.state = .collected) :
    (startHandOver r s).findSet n = some { r with state := .folding } := by
  have number := findSet_number found
  subst number
  refine (evalAccBlocked_findSet _ r.number).trans ?_
  exact findSet_putSetState_self .folding found (by rw [collected]; rfl)

/-! ### Hand-over (R115, R127) -/

theorem exec_handOver (s : State) : exec .handOver s = .next (event examHandOver s) := rfl

theorem needsSquaring_false {r : SetRec} (h : r.skewed = false ∨ foldKindOf r.program = .none) :
    r.needsSquaring = false := by
  unfold SetRec.needsSquaring
  rcases h with h | h <;> simp [h]

/-- Settles O48: the conditions hold, so the release starts and the folder names the set. -/
theorem handOverStarts : Obligations.HandOverStarts := by
  unfold Obligations.HandOverStarts
  intro n r s complete held found collected done idle room free closed running calm square
  have ready : readySet s.begin = some r := readySet_ready complete held found collected done
  have can : canHandOver s.begin = true := by
    unfold canHandOver
    rw [ready]
    have idle' : s.begin.folder.state = .idle := idle
    have room' : s.begin.belt.queue.length < 3 := room
    have free' : s.begin.acc.stroke = none := free
    have closed' : s.begin.line.guard = .closed := closed
    have running' : s.begin.line.state ≠ .faulted := running
    have calm' : s.begin.acc.obligation ≠ .forced := calm
    simp [idle', room', free', closed', running', calm', needsSquaring_false square]
  have starts := examHandOver_starts ready can
  have settled : Settled (examHandOver s.begin) := (examHandOver_onlyRaised s.begin).settled
  have same := event_of_settled settled
  have begun : SameExcept [.ev] s s.begin := setEv_same _
  refine ⟨_, exec_handOver s, ?_, ?_, ?_, ?_⟩
  · rw [same .acc (by decide), starts]
    exact startHandOver_acc r s.begin
  · rw [event_findSet_of_settled settled, starts]
    exact startHandOver_found (s := s.begin) found collected
  · rw [same .folder (by decide), starts]
    exact startHandOver_folder r s.begin
  · exact (begun.comp (examHandOver_same s.begin) (n := [.links, .table, .acc, .folder, .line, .ev]) (by decide)
      (by decide)).comp same (by decide) (by decide)

/-! ### The jog interval (R120, R121, R122) -/

/-- The accumulator as its jog interval starts anew, where it runs. -/
def Accumulator.intervalStarted (a : Accumulator) (ms : Nat) : Accumulator :=
  { a with jogInterval := if a.state = .collecting ∨ a.state = .complete then some (ms * 1000) else a.jogInterval }

theorem restartInterval_eq (s : State) :
    restartInterval s = s.setAcc (s.acc.intervalStarted s.line.geometry.jogInterval) := by
  have other (no : ¬ (s.acc.state = .collecting ∨ s.acc.state = .complete)) :
      s = s.setAcc (s.acc.intervalStarted s.line.geometry.jogInterval) := by
    unfold Accumulator.intervalStarted
    rw [if_neg no]
    rfl
  unfold restartInterval
  split
  · rename_i state
    unfold Accumulator.intervalStarted
    rw [if_pos (.inl state)]
    rfl
  · rename_i state
    unfold Accumulator.intervalStarted
    rw [if_pos (.inr state)]
    rfl
  · rename_i state
    exact other (by simp [state])
  · rename_i state
    exact other (by simp [state])
  · rename_i state
    exact other (by simp [state])

theorem setObligation_acc (o : Obligation) (s : State) : (setObligation o s).acc = { s.acc with obligation := o } :=
  setHold_same _ _ _ .acc (by decide)

theorem setObligation_jogForced (o : Obligation) (s : State) :
    (setObligation o s).line.holds.jogForced = (o == .forced) := by
  unfold setObligation
  rw [setHold_line]
  rfl

theorem exec_jogIntervalExpiry (s : State) : exec .jogIntervalExpiry s = .next (event expireInterval s) := rfl

theorem expireInterval_runs (running : s.acc.jogInterval.isSome) : expireInterval s =
    setObligation s.acc.obligation.escalate (restartInterval (s.setAcc { s.acc with jogInterval := none })) := by
  obtain ⟨x, timer⟩ := Option.isSome_iff_exists.mp running
  unfold expireInterval
  rw [timer]

/-- Settles O53: the interval restarts, the obligation goes one level up, and its hold cause follows. -/
theorem jogIntervalEscalates : Obligations.JogIntervalEscalates := by
  unfold Obligations.JogIntervalEscalates
  intro s running
  have rule := expireInterval_runs (s := s.begin) running
  rw [restartInterval_eq] at rule
  have asked : OnlyRaised s.begin (expireInterval s.begin) := by
    rw [rule]
    exact (OnlyRaised.of_same ((setAcc_same _).comp (setAcc_same _) (n := [.acc]) (by decide) (by decide))
      (by decide)).trans (setObligation_onlyRaised _ _)
  have same := event_of_settled asked.settled
  have acc : (event expireInterval s).acc = _ := same .acc (by decide)
  have line : (event expireInterval s).line = _ := same .line (by decide)
  rw [rule, setObligation_acc] at acc
  have level : (event expireInterval s).acc.obligation = s.acc.obligation.escalate := by rw [acc]; rfl
  refine ⟨_, exec_jogIntervalExpiry s, ?_, ?_, ?_⟩
  · exact acc
  · rw [line, level, rule, setObligation_jogForced]
    show (s.acc.obligation.escalate == .forced) = _
    cases s.acc.obligation <;> rfl
  · have begun : SameExcept [.ev] s s.begin := setEv_same _
    have changed : SameExcept [.links, .acc, .line, .ev] s.begin (expireInterval s.begin) := by
      rw [rule]
      exact ((setAcc_same _).comp (setAcc_same _) (n := [.acc]) (by decide) (by decide)).comp (setObligation_same _ _)
        (by decide) (by decide)
    exact (begun.comp changed (n := [.links, .acc, .line, .ev]) (by decide) (by decide)).comp same (by decide) (by decide)

/-! ### The strokes (R112, R115, R119, R121) -/

theorem exec_jogStrokeStart (s : State) :
    exec .jogStrokeStart s = .next (event (fun s => examObligation (examSquaring s)) s) := rfl

theorem squaringWanted_wanted {n : Nat} {r : SetRec} (complete : s.acc.state = .complete) (held : s.acc.held = some n)
    (found : s.findSet n = some r) (collected : r.state = .collected)
    (wanted : r.nextStep = some .jog ∨ (r.nextStep = none ∧ r.skewed = true ∧ foldKindOf r.program ≠ .none)) :
    squaringWanted s = some (decide (r.nextStep = some .jog)) := by
  unfold squaringWanted
  rw [complete, heldRec_of_held held found]
  dsimp only
  rw [if_pos collected]
  rcases wanted with next | ⟨next, skewed, fold⟩
  · rw [next]; rfl
  · rw [next]
    have needs : r.needsSquaring = true := by
      unfold SetRec.needsSquaring
      simp [skewed, fold]
    simp [needs]

theorem examObligation_starts {full : Bool} (wanted : obligationStroke s = some full) (may : canStroke s = true)
    (noDump : dumpDue s = false) (noRelease : canHandOver s = false) (noSquaring : squaringWanted s = none) :
    examObligation s = startStroke full false s := by
  unfold examObligation
  rw [wanted]
  dsimp only
  rw [may, noDump, noRelease, noSquaring]
  rfl

/-- Settles O51: the squaring stroke starts first; where none is wanted, the obligation's. -/
theorem jogStrokeStarts : Obligations.JogStrokeStarts := by
  unfold Obligations.JogStrokeStarts
  refine fun s state free closed => ⟨fun n r complete held found collected wanted => ?_,
    fun full wanted noDump noRelease noSquaring => ?_⟩
  · have squaring := squaringWanted_wanted (s := s.begin) complete held found collected wanted
    have starts := examSquaring_starts squaring (canStroke_eq_true (s := s.begin) state free closed)
    have rule : examObligation (examSquaring s.begin) =
        startStroke true (decide (r.nextStep = some .jog)) s.begin := by
      rw [starts]
      exact examObligation_waits (canStroke_of_stroke rfl)
    rw [exec_jogStrokeStart, event_idle _ (by rw [rule]; rfl), rule]
    have square : (true && s.begin.acc.state == .complete) = true := by
      rw [show s.begin.acc.state = .complete from complete]
      rfl
    unfold startStroke
    rw [square]
    rfl
  · have rule : examObligation (examSquaring s.begin) = startStroke full false s.begin := by
      rw [examSquaring_waits (s := s.begin) noSquaring]
      exact examObligation_starts (s := s.begin) wanted (canStroke_eq_true (s := s.begin) state free closed) noDump
        noRelease noSquaring
    rw [exec_jogStrokeStart, event_idle _ (by rw [rule]; rfl), rule]
    rfl

/-! ### The jog done (R119, R120) -/

/-- The accumulator as a dump or a release may have started, the stroke and the obligation as they were. -/
structure StackExamined (a b : Accumulator) : Prop where
  stroke : b.stroke = a.stroke
  timeout : b.jogTimeout = a.jogTimeout
  obligation : b.obligation = a.obligation
  state : b.state = .complete → a.state = .complete

theorem StackExamined.refl (a : Accumulator) : StackExamined a a := ⟨rfl, rfl, rfl, id⟩

theorem StackExamined.trans {a b d : Accumulator} (h : StackExamined a b) (k : StackExamined b d) : StackExamined a d :=
  ⟨k.stroke.trans h.stroke, k.timeout.trans h.timeout, k.obligation.trans h.obligation, fun c => h.state (k.state c)⟩

theorem examDump_examined (s : State) : StackExamined s.acc (examDump s).acc := by
  by_cases due : dumpDue s = true
  · rw [examDump_starts due, startDump_acc]
    exact ⟨rfl, rfl, rfl, nofun⟩
  · rw [examDump_waits (Bool.eq_false_of_not_eq_true due)]
    exact .refl _

theorem examHandOver_examined (s : State) : StackExamined s.acc (examHandOver s).acc := by
  by_cases can : canHandOver s = true
  · obtain ⟨r, ready⟩ := canHandOver_ready can
    rw [examHandOver_starts ready can, startHandOver_acc]
    exact ⟨rfl, rfl, rfl, nofun⟩
  · rw [examHandOver_waits (Bool.eq_false_of_not_eq_true can)]
    exact .refl _

/-- What the examinations after a stroke leave of it: none in flight, or a squaring stroke with its own timeout. -/
theorem examStack_stroke (free : s.acc.stroke = none) (still : s.acc.jogTimeout = none) :
    (examStack s).acc.obligation = s.acc.obligation ∧
      (((examStack s).acc.stroke = none ∧ (examStack s).acc.jogTimeout = none) ∨
        (s.acc.state = .complete ∧
          (examStack s).acc.jogTimeout = some (s.line.geometry.actuatorTimeout * 1000) ∧
          ∃ j, (examStack s).acc.stroke = some { full := true, squaring := true, jogStep := j })) := by
  have before := (examDump_examined s).trans (examHandOver_examined (examDump s))
  have geometry : (examHandOver (examDump s)).line.geometry = s.line.geometry :=
    (((Moves.here (c := .inner) (g := false) s).examDump).examHandOver).geometry_kept nofun nofun
  unfold examStack
  cases wanted : squaringWanted (examHandOver (examDump s)) with
  | none =>
    rw [examSquaring_waits wanted]
    exact ⟨before.obligation, .inl ⟨before.stroke.trans free, before.timeout.trans still⟩⟩
  | some j =>
    by_cases may : canStroke (examHandOver (examDump s)) = true
    · have complete : (examHandOver (examDump s)).acc.state = .complete := by
        by_contra other
        rw [squaringWanted_of_state other] at wanted
        cases wanted
      rw [examSquaring_starts wanted may, startStroke_acc, geometry]
      refine ⟨before.obligation, .inr ⟨before.state complete, rfl, j, ?_⟩⟩
      unfold Accumulator.strokeStarted
      rw [complete]
      rfl
    · have waits : examSquaring (examHandOver (examDump s)) = examHandOver (examDump s) := by
        unfold examSquaring
        rw [wanted]
        exact if_neg may
      rw [waits]
      exact ⟨before.obligation, .inl ⟨before.stroke.trans free, before.timeout.trans still⟩⟩

/-- While a good set is COLLECTING there is nothing to examine. -/
theorem examStack_collecting {n : Nat} (collecting : s.acc.state = .collecting) (held : s.acc.held = some n)
    (good : s.setState n ≠ some .rejecting) : examStack s = s := by
  have due : dumpDue s = false := by
    unfold dumpDue contentsRejected
    rw [held]
    simp [good]
  have other : s.acc.state ≠ .complete := by rw [collecting]; nofun
  unfold examStack
  rw [examDump_waits due, examHandOver_waits (canHandOver_of_readySet (readySet_of_state other)),
    examSquaring_waits (squaringWanted_of_state other)]

theorem takeSteps_acc (fuel : Nat) : ∀ s : State,
    (takeSteps fuel s).acc = { s.acc with holdTimer := (takeSteps fuel s).acc.holdTimer } := by
  induction fuel with
  | zero => exact fun _ => rfl
  | succ fuel ih =>
    intro s
    unfold takeSteps
    split
    · rfl
    · split
      · split
        · split
          · exact ih _
          · unfold beginHold
            rw [raiseCond_same _ _ _ .acc (by decide)]
            rfl
        · split
          · exact ih _
          · rfl
        · rfl
      · rfl

theorem exec_jogDone (s : State) : exec .jogDone s = .next (input jogDone s) := rfl

/-- The stroke ended, the obligation CLEAR and the interval restarted, before the set is looked at. -/
def strokeCleared (s : State) : State :=
  setObligation .clear (restartInterval (s.setAcc { s.acc with stroke := none, jogTimeout := none }))

theorem endStroke_eq (k : Stroke) (s : State) :
    endStroke k s = examStack (passStep k (squareUp k (strokeCleared s))) := rfl

theorem strokeCleared_same (s : State) : SameExcept [.links, .acc, .line, .ev] s (strokeCleared s) := by
  unfold strokeCleared
  rw [restartInterval_eq]
  exact ((setAcc_same _).comp (setAcc_same _) (n := [.acc]) (by decide) (by decide)).comp (setObligation_same _ _)
    (by decide) (by decide)

theorem strokeCleared_acc (s : State) : (strokeCleared s).acc =
    { (s.acc.intervalStarted s.line.geometry.jogInterval) with
      stroke := none, jogTimeout := none, obligation := .clear } := by
  unfold strokeCleared
  rw [setObligation_acc, restartInterval_eq]
  rfl

theorem strokeCleared_onlyRaised (s : State) : OnlyRaised s (strokeCleared s) := by
  unfold strokeCleared
  rw [restartInterval_eq]
  exact (OnlyRaised.of_same ((setAcc_same _).comp (setAcc_same _) (n := [.acc]) (by decide) (by decide))
    (by decide)).trans (setObligation_onlyRaised _ _)

theorem updateSetOpt_same (n : Option Nat) (f : SetRec → SetRec) (s : State) : SameExcept [.table] s (updateSetOpt n f s) := by
  unfold updateSetOpt
  split
  · exact updateSet_same _ _ _
  · exact .refl s

theorem squareUp_same (k : Stroke) (s : State) : SameExcept [.table] s (squareUp k s) := by
  unfold squareUp
  split
  · exact updateSetOpt_same _ _ _
  · exact .refl s

/-- The steps taken after a stroke change the held set and the hold timer, and may raise SET_HELD. -/
structure StepsTaken (s t : State) : Prop where
  acc : t.acc = { s.acc with holdTimer := t.acc.holdTimer }
  same : SameExcept [.links, .table, .acc, .ev] s t
  asked : OnlyRaised s t
  records : KeepsRecords s t

theorem StepsTaken.refl (s : State) : StepsTaken s s := ⟨rfl, .refl s, .refl s, .refl s⟩

theorem passJog_steps (s : State) : StepsTaken s (passJog s) := by
  unfold passJog
  split
  · rename_i r held
    split
    · have updated := updateSet_same r.number (SetRec.pass .jog) s
      exact ⟨takeSteps_acc 4 _, updated.comp (runSteps_same _) (by decide) (by decide),
        (OnlyRaised.of_same updated (by decide)).trans (takeSteps_onlyRaised 4 _),
        (KeepsRecords.updateSet r.number (SetRec.pass .jog) (fun _ => rfl) fun x _ => .pass .jog x).trans
          (takeSteps_keepsRecords 4 _)⟩
    · exact .refl s
  · exact .refl s

theorem passStep_steps (k : Stroke) (s : State) : StepsTaken s (passStep k s) := by
  unfold passStep
  split
  · exact passJog_steps s
  · exact .refl s

/-- The JOG step's own stroke passes JOG for a COLLECTED held set. -/
theorem passJog_passes {n : Nat} {r : SetRec} (held : s.acc.held = some n) (found : s.findSet n = some r)
    (collected : r.state = .collected) :
    ∃ r', (passJog s).findSet n = some r' ∧ StepKind.jog ∈ r'.stepsPassed := by
  have number := findSet_number found
  subst number
  have jogged := findSet_updateSet_self (SetRec.pass .jog) (fun _ => rfl) found
  obtain ⟨r', found', carried⟩ := takeSteps_keepsRecords 4 _ _ _ jogged
  unfold passJog
  rw [heldRec_of_held held found]
  dsimp only
  rw [if_pos collected]
  exact ⟨r', found', carried.passed (r.mem_pass .jog)⟩

theorem squareUp_found {n : Nat} {r : SetRec} (k : Stroke) (held : s.acc.held = some n) (found : s.findSet n = some r) :
    (squareUp k s).findSet n = some { r with skewed := if k.squaring then false else r.skewed } := by
  unfold squareUp
  split
  · unfold updateSetOpt
    rw [held]
    exact findSet_updateSet_self (fun r => { r with skewed := false }) (fun _ => rfl) found
  · exact found

/-- Squaring a set leaves its state. -/
theorem squareUp_setState (k : Stroke) (s : State) (n : Nat) : (squareUp k s).setState n = s.setState n := by
  unfold squareUp updateSetOpt State.setState
  split
  · split
    · rename_i m _
      rw [findSet_updateSet m n (fun r => { r with skewed := false }) fun _ => rfl]
      cases s.findSet n with
      | none => rfl
      | some r =>
        simp only [Option.map_some]
        split <;> rfl
    · rfl
  · rfl

/-- Settles O52: the stroke is cleared, the set squared and its JOG step passed, and what waited for the stroke is
examined. -/
theorem jogDoneEndsTheStroke : Obligations.JogDoneEndsTheStroke := by
  unfold Obligations.JogDoneEndsTheStroke
  intro k s open_ stroke
  have rule : jogDone s.begin = endStroke k s.begin := by
    unfold jogDone
    rw [show s.begin.acc.stroke = some k from stroke]
  rw [endStroke_eq] at rule
  have cleared := strokeCleared_same s.begin
  have clearedAcc := strokeCleared_acc s.begin
  have squared := squareUp_same k (strokeCleared s.begin)
  have steps := passStep_steps k (squareUp k (strokeCleared s.begin))
  have stepsAcc : (passStep k (squareUp k (strokeCleared s.begin))).acc =
      { (strokeCleared s.begin).acc with
        holdTimer := (passStep k (squareUp k (strokeCleared s.begin))).acc.holdTimer } := by
    rw [steps.acc, squared .acc (by decide)]
  have settled : Settled (jogDone s.begin) := by
    rw [rule]
    exact ((((strokeCleared_onlyRaised s.begin).trans (.of_same squared (by decide))).trans steps.asked).trans
      (examStack_onlyRaised _)).settled
  have same := event_of_settled settled
  have geometry : (passStep k (squareUp k (strokeCleared s.begin))).line.geometry = s.line.geometry := by
    rw [steps.same .line (by decide), squared .line (by decide)]
    show (setObligation _ _).line.geometry = _
    unfold setObligation
    rw [setHold_line, restartInterval_eq]
    rfl
  have exam := examStack_stroke (s := passStep k (squareUp k (strokeCleared s.begin))) (by rw [stepsAcc, clearedAcc])
    (by rw [stepsAcc, clearedAcc])
  rw [stepsAcc, clearedAcc, geometry] at exam
  obtain ⟨calm, strokes⟩ := exam
  rw [← rule, ← same .acc (by decide)] at calm strokes
  have part : SameExcept [.links, .table, .acc, .folder, .line, .ev] s (event jogDone s) := by
    have begun : SameExcept [.ev] s s.begin := setEv_same _
    rw [rule] at same
    exact ((((begun.comp cleared (n := [.links, .acc, .line, .ev]) (by decide) (by decide)).comp squared
      (n := [.links, .table, .acc, .line, .ev]) (by decide) (by decide)).comp steps.same
      (n := [.links, .table, .acc, .line, .ev]) (by decide) (by decide)).comp (examStack_same _)
      (n := [.links, .table, .acc, .folder, .line, .ev]) (by decide) (by decide)).comp same (by decide) (by decide)
  rw [exec_jogDone, input_open _ open_]
  refine ⟨_, rfl, calm, ?_, part .web (by decide), part .reader (by decide), part .belt (by decide), strokes,
    fun n collecting other held good => ?_, fun n r held found => ⟨fun squaring => ?_, fun own collected => ?_⟩⟩
  · have moves : Moves (.of .jogDone) false (strokeCleared s.begin) (event jogDone s) :=
      Moves.event rfl jogDone (by rw [rule]; exact (((Moves.here _).squareUp k).passStep k).examStack)
    have start : JogOk (strokeCleared s.begin) := by
      unfold JogOk
      rw [clearedAcc]
      exact setObligation_jogForced .clear _
    have ends := moves.keeps (P := JogOk) (fun _ _ m => m.jogOk) start
    unfold JogOk at ends
    rw [ends, calm]
    rfl
  · have idle : examStack (passStep k (squareUp k (strokeCleared s.begin))) = squareUp k (strokeCleared s.begin) := by
      have plain : passStep k (squareUp k (strokeCleared s.begin)) = squareUp k (strokeCleared s.begin) :=
        if_neg (by simp [other])
      rw [plain]
      refine examStack_collecting (n := n) ?_ ?_ ?_
      · rw [squared .acc (by decide), clearedAcc]; exact collecting
      · rw [squared .acc (by decide), clearedAcc]; exact held
      · rw [squareUp_setState, State.setState, findSet_of_table (cleared .table (by decide))]; exact good
    rw [same .acc (by decide), rule, idle, squared .acc (by decide), clearedAcc]
    unfold Accumulator.intervalStarted
    rw [if_pos (.inl collecting)]
    rfl
  · have squaredUp := squareUp_found (s := strokeCleared s.begin) k (by rw [clearedAcc]; exact held)
      ((findSet_of_table (cleared .table (by decide)) n).trans found)
    obtain ⟨x, foundX, carriedX⟩ := steps.records n _ squaredUp
    obtain ⟨y, foundY, carriedY⟩ := examStack_keepsRecords _ n _ foundX
    rw [← rule, ← event_findSet_of_settled settled] at foundY
    refine ⟨y, foundY, ?_⟩
    rw [carriedY.skewed, carriedX.skewed, squaring]
    rfl
  · have squaredUp := squareUp_found (s := strokeCleared s.begin) k (by rw [clearedAcc]; exact held)
      ((findSet_of_table (cleared .table (by decide)) n).trans found)
    have passes : passStep k (squareUp k (strokeCleared s.begin)) = passJog (squareUp k (strokeCleared s.begin)) :=
      if_pos own
    obtain ⟨x, foundX, passed⟩ := passJog_passes (s := squareUp k (strokeCleared s.begin)) (n := n)
      (by rw [squared .acc (by decide), clearedAcc]; exact held) squaredUp collected
    rw [← passes] at foundX
    obtain ⟨y, foundY, carriedY⟩ := examStack_keepsRecords _ n _ foundX
    rw [← rule, ← event_findSet_of_settled settled] at foundY
    exact ⟨y, foundY, carriedY.passed passed⟩

/-! ### The dump (R117, R118) -/

theorem exec_dumpStart (s : State) : exec .dumpStart s = .next (event examDump s) := rfl

theorem exec_dumpDone (s : State) : exec .dumpDone s = .next (input endDump s) := rfl

theorem dumpDue_eq_true (state : s.acc.state = .collecting ∨ s.acc.state = .complete)
    (rejected : ∀ n, s.acc.held = some n → s.setState n = some .rejecting)
    (arrived : ∀ e ∈ s.track.list, e.disposition = .accumulate → e.pastGate = true → inBin s e = false)
    (free : s.acc.stroke = none) (closed : s.line.guard = .closed) : dumpDue s = true := by
  have contents : contentsRejected s = true := by
    unfold contentsRejected
    split
    · rfl
    · rename_i n held
      simp [rejected n held]
  have none : (s.track.list.any fun e => e.disposition == .accumulate && e.pastGate && inBin s e) = false := by
    rw [List.any_eq_false]
    intro e mem hit
    simp only [Bool.and_eq_true, beq_iff_eq] at hit
    rw [arrived e mem hit.1.1 hit.1.2] at hit
    exact absurd hit.2 (by simp)
  unfold dumpDue
  rw [contents, none, free, closed]
  rcases state with state | state <;> simp [state]

/-- The bin emptied: what a dump's end leaves of the accumulator. -/
theorem emptyBin_acc (s : State) : (emptyBin s).acc = { s.acc.emptied with obligation := .clear } := by
  unfold emptyBin afterEmpty
  rw [evalAccBlocked_acc, setObligation_acc]
  rfl

theorem emptyBin_same (s : State) : SameExcept [.links, .acc, .line, .ev] s (emptyBin s) :=
  ((setAcc_same _).comp (setObligation_same _ _) (n := [.links, .acc, .line, .ev]) (by decide) (by decide)).comp
    (evalAccBlocked_same _) (by decide) (by decide)

theorem emptyBin_onlyRaised (s : State) : OnlyRaised s (emptyBin s) :=
  (OnlyRaised.of_same (setAcc_same s.acc.emptied) (by decide)).trans
    ((setObligation_onlyRaised _ _).trans (evalAccBlocked_onlyRaised _))

/-- What the test of R7 keeps, whatever set it is for: the accumulator, the folder and the belt; that a set held nowhere is
held nowhere; and that no plan and no dump is asked for. -/
structure KeepsOut (s t : State) : Prop where
  same : SameExcept [.table, .line, .track, .ev] s t
  out : ∀ n, holdsSet s n = false → holdsSet t n = false
  plan : t.ev.planWanted = s.ev.planWanted
  ended : s.ev.ended ⊆ t.ev.ended

theorem KeepsOut.refl (s : State) : KeepsOut s s := ⟨.refl s, fun _ => id, rfl, List.Subset.refl _⟩

theorem detachSheets_out (m : Nat) {n : Nat} (out : holdsSet s n = false) : holdsSet (detachSheets m s) n = false := by
  unfold holdsSet at out ⊢
  simp only [Bool.or_eq_false_iff, List.any_eq_false] at out ⊢
  obtain ⟨⟨⟨⟨sheets, held⟩, others⟩, folder⟩, belt⟩ := out
  refine ⟨⟨⟨⟨fun e mem => ?_, held⟩, others⟩, folder⟩, belt⟩
  obtain ⟨x, memX, rfl⟩ := List.mem_map.mp mem
  split
  · simp
  · exact sheets x memX

theorem testDiverted_keepsOut (m : Nat) (s : State) : KeepsOut s (testDiverted m s) := by
  refine ⟨testDiverted_same m s, fun n out => ?_, ?_, ?_⟩
  · unfold testDiverted makeTerminal
    split
    · split
      · exact detachSheets_out m (s := (putSetState m .diverted s).withTally (Tally.ended .diverted)) out
      · exact out
    · exact out
  · unfold testDiverted makeTerminal
    split
    · split <;> rfl
    · rfl
  · unfold testDiverted makeTerminal
    split
    · split
      · exact List.subset_append_left ..
      · exact List.Subset.refl _
    · exact List.Subset.refl _

theorem testDiverted_rejecting {n : Nat} (rejecting : s.setState n = some .rejecting) (out : holdsSet s n = false) :
    testDiverted n s = makeTerminal n .diverted s := if_pos ⟨rejecting, out⟩

/-- A set has come to its end at the event: it is DIVERTED and will join the queues. -/
def EndedDiverted (n : Nat) (s : State) : Prop := s.setState n = some .diverted ∧ n ∈ s.ev.ended

theorem testDiverted_ends {n : Nat} (rejecting : s.setState n = some .rejecting) (out : holdsSet s n = false) :
    EndedDiverted n (testDiverted n s) := by
  obtain ⟨r, found, state⟩ := Option.map_eq_some_iff.mp rejecting
  have alive : r.state.terminal = false := by rw [state]; rfl
  rw [testDiverted_rejecting rejecting out]
  refine ⟨?_, ?_⟩
  · unfold State.setState
    rw [makeTerminal_found .diverted found alive]
    rfl
  · rw [makeTerminal_ev .diverted found alive]
    exact List.mem_append_right _ (List.mem_singleton.mpr rfl)

theorem testDiverted_setState_other {n m : Nat} (other : n ≠ m) (s : State) :
    (testDiverted m s).setState n = s.setState n := by
  unfold testDiverted makeTerminal
  split
  · split
    · exact congrArg (Option.map SetRec.state) (findSet_putSetState_other .diverted other s)
    · rfl
  · rfl

theorem testDiverted_keepsEnded {n : Nat} (m : Nat) (h : EndedDiverted n s) : EndedDiverted n (testDiverted m s) := by
  refine ⟨?_, (testDiverted_keepsOut m s).ended h.2⟩
  by_cases own : n = m
  · subst own
    have kept : testDiverted n s = s := if_neg fun e => by rw [h.1] at e; cases e.1
    rw [kept]
    exact h.1
  · rw [testDiverted_setState_other own]
    exact h.1

/-- The sets that leave the bin are tested in turn: each REJECTING one that nothing holds ends. -/
theorem foldl_testDiverted (ns : List Nat) : ∀ s : State, KeepsOut s (ns.foldl (fun s n => testDiverted n s) s) ∧
    ∀ n, EndedDiverted n s ∨ (n ∈ ns ∧ s.setState n = some .rejecting ∧ holdsSet s n = false) →
      EndedDiverted n (ns.foldl (fun s n => testDiverted n s) s) := by
  induction ns with
  | nil => exact fun s => ⟨.refl s, fun n h => h.elim id fun e => absurd e.1 List.not_mem_nil⟩
  | cons m rest ih =>
    intro s
    obtain ⟨keeps, ends⟩ := ih (testDiverted m s)
    have one := testDiverted_keepsOut m s
    refine ⟨⟨one.same.comp keeps.same, fun n out => keeps.out n (one.out n out), keeps.plan.trans one.plan,
      fun x mem => keeps.ended (one.ended mem)⟩, fun n h => ends n ?_⟩
    rcases h with done | ⟨mem, rejecting, out⟩
    · exact .inl (testDiverted_keepsEnded m done)
    · by_cases own : n = m
      · subst own
        exact .inl (testDiverted_ends rejecting out)
      · rw [testDiverted_setState_other own]
        exact .inr ⟨(List.mem_cons.mp mem).resolve_left own, rejecting, one.out n out⟩

theorem joinQueues_completion (s : State) (n : Nat) :
    (joinQueues s n).table.completion = s.table.completion ++ [n] := by
  have same : (joinReprintIf n (joinCompletion n s)).table.completion = (joinCompletion n s).table.completion := by
    unfold joinReprintIf joinReprint
    dsimp only
    split
    · split
      · split
        · rw [raiseCond_same _ _ _ .table (by decide)]
          rfl
        · rfl
      · rfl
    · rfl
  unfold joinQueues
  rw [same, joinCompletion_table]

theorem foldl_joinQueues_completion (ns : List Nat) : ∀ s : State,
    (ns.foldl joinQueues s).table.completion = s.table.completion ++ ns := by
  induction ns with
  | nil => exact fun s => (List.append_nil _).symm
  | cons n rest ih =>
    intro s
    refine (ih _).trans ?_
    rw [joinQueues_completion, List.append_assoc]
    rfl

/-- The sets that ended at an event join the Completion Order. -/
theorem flushEnded_completion (s : State) :
    (flushEnded s).table.completion = s.table.completion ++ ascending s.ev.ended :=
  foldl_joinQueues_completion _ _

/-- Settles O50: a dump that is due starts; its end empties the bin, and the sets that were in it are tested. -/
theorem dumpStartsAndEnds : Obligations.DumpStartsAndEnds := by
  unfold Obligations.DumpStartsAndEnds
  refine fun s => ⟨fun state rejected arrived free closed => ?_, fun open_ dumping => ?_⟩
  · have due : dumpDue s.begin = true := dumpDue_eq_true (s := s.begin) state rejected arrived free closed
    have settled : Settled (examDump s.begin) := (examDump_onlyRaised s.begin).settled
    have same := event_of_settled settled
    have begun : SameExcept [.ev] s s.begin := setEv_same _
    refine ⟨_, exec_dumpStart s, ?_, (begun.comp (examDump_same s.begin) (n := [.links, .acc, .line, .ev]) (by decide)
      (by decide)).comp same (by decide) (by decide)⟩
    rw [same .acc (by decide), examDump_starts due, startDump_acc]
    rfl
  · have rule : endDump s.begin = (ascending (s.acc.held.toList ++ s.acc.others)).foldl (fun s n => testDiverted n s)
        (emptyBin s.begin) := by
      unfold endDump
      rw [show s.begin.acc.state = .dumping from dumping]
      rfl
    obtain ⟨keeps, ends⟩ := foldl_testDiverted (ascending (s.acc.held.toList ++ s.acc.others)) (emptyBin s.begin)
    rw [← rule] at keeps ends
    have acc : (endDump s.begin).acc = { s.acc.emptied with obligation := .clear } :=
      (keeps.same .acc (by decide)).trans (emptyBin_acc s.begin)
    have asked := emptyBin_onlyRaised s.begin
    have settled : settle (endDump s.begin) = flushEnded (endDump s.begin) := by
      have plan : (endDump s.begin).ev.planWanted = false := by
        rw [keeps.plan, asked]
        rfl
      unfold settle
      rw [replan_idle plan, examAsked_bare (by rw [acc]; rfl) (by rw [acc]; rfl)]
    have same := event_same endDump s
    rw [settled] at same
    have after : (event endDump s).acc = { s.acc.emptied with obligation := .clear } :=
      ((same .acc (by decide)).trans (flushEnded_same _ .acc (by decide))).trans acc
    rw [exec_dumpDone, input_open _ open_]
    refine ⟨_, rfl, after, fun n held rejecting sheets folder belt => ?_⟩
    have bin := emptyBin_same s.begin
    have gone : holdsSet (emptyBin s.begin) n = false := by
      unfold holdsSet
      rw [bin .track (by decide), bin .folder (by decide), bin .belt (by decide), emptyBin_acc]
      have sheets' : ∀ e ∈ s.begin.track.list, ¬ e.set = some n := sheets
      have folder' : ¬ s.begin.folder.set = some n := folder
      have belt' : n ∉ s.begin.belt.queue := belt
      simpa [Accumulator.emptied, folder', belt'] using sheets'
    have listed : n ∈ ascending (s.acc.held.toList ++ s.acc.others) := by
      rw [(ascending_perm _).mem_iff, held]
      exact List.mem_append_left _ (List.mem_singleton.mpr rfl)
    have still : (emptyBin s.begin).setState n = some .rejecting := by
      unfold State.setState
      rw [findSet_of_table (bin .table (by decide))]
      exact rejecting
    obtain ⟨diverted, ended⟩ := ends n (.inr ⟨listed, still, gone⟩)
    refine ⟨?_, ?_⟩
    · unfold State.setState
      rw [event_findSet, settled, findSet_of_records (flushEnded_records _)]
      exact diverted
    · rw [same .table (by decide), flushEnded_completion]
      exact List.mem_append_right _ ((ascending_perm _).mem_iff.mpr ended)

end Sys2Proof.Machine
end

section
/-! PROOFS. The folder, the belt and GUARD (sections 7.2 to 7.4, 8.1 to 8.4, 9.3), the expiries that reject a set, and
arrivals (section 6.2). -/

namespace Sys2Proof.Machine

variable {s t u v : State}

/-! ### The folder (R116, R128, R129) -/

theorem exec_folderEntry (s : State) : exec .folderEntry s = .next (input enterFolder s) := rfl

theorem enterFolder_enters {n : Nat} (idle : s.folder.state = .idle) (releasing : s.acc.state = .releasing)
    (held : s.acc.held = some n) : enterFolder s = endRelease n
      { s.folder with state := .folding, set := some n, timer := msTimer s.line.geometry.foldTimeout } s := by
  unfold enterFolder
  rw [idle, releasing, held]

theorem enterFolder_spurious (h : s.folder.state ≠ .idle ∨ s.acc.state ≠ .releasing) :
    enterFolder s = lineFault .jamFolder s.folder.set s := by
  unfold enterFolder
  split
  · rename_i idle releasing _
    exact absurd h (by simp [idle, releasing])
  · rfl

/-- What the end of a release leaves: the folder is as given, the release is over, and a bin with no other content is
emptied. -/
theorem endRelease_ends (n : Nat) (f : Folder) (s : State) :
    (endRelease n f s).folder = f ∧ (endRelease n f s).acc.releaseTimeout = none ∧
      (endRelease n f s).acc.state ≠ .releasing ∧
      (s.acc.others = [] → s.acc.unassigned = 0 → (endRelease n f s).acc = { s.acc.emptied with obligation := .clear }) ∧
      SameExcept [.links, .acc, .folder, .line, .ev] s (endRelease n f s) ∧ OnlyRaised s (endRelease n f s) := by
  unfold endRelease
  split
  · have base : SameExcept [.acc, .folder] s ((s.setAcc s.acc.emptied).setFolder f) :=
      (setAcc_same _).comp (setFolder_same _) (by decide) (by decide)
    have after : SameExcept [.links, .acc, .line, .ev] ((s.setAcc s.acc.emptied).setFolder f)
        (afterEmpty ((s.setAcc s.acc.emptied).setFolder f)) :=
      (setObligation_same _ _).comp (evalAccBlocked_same _) (by decide) (by decide)
    have acc : (afterEmpty ((s.setAcc s.acc.emptied).setFolder f)).acc = { s.acc.emptied with obligation := .clear } := by
      unfold afterEmpty
      rw [evalAccBlocked_acc, setObligation_acc]
      rfl
    refine ⟨after .folder (by decide), by rw [acc]; rfl, by rw [acc]; nofun, fun _ _ => acc,
      base.comp after (by decide) (by decide), ?_⟩
    exact (OnlyRaised.of_same base (by decide)).trans
      ((setObligation_onlyRaised _ _).trans (evalAccBlocked_onlyRaised _))
  · rename_i kept
    have base : SameExcept [.acc, .folder] s
        ((s.setAcc (s.acc.keep (arrivedOf s n) s.line.geometry.jogInterval)).setFolder f) :=
      (setAcc_same _).comp (setFolder_same _) (by decide) (by decide)
    have eval := evalAccBlocked_same ((s.setAcc (s.acc.keep (arrivedOf s n) s.line.geometry.jogInterval)).setFolder f)
    have exam := examDump_same
      (evalAccBlocked ((s.setAcc (s.acc.keep (arrivedOf s n) s.line.geometry.jogInterval)).setFolder f))
    have after := eval.comp exam (n := [.links, .acc, .line, .ev]) (by decide) (by decide)
    have acc : (evalAccBlocked ((s.setAcc (s.acc.keep (arrivedOf s n) s.line.geometry.jogInterval)).setFolder f)).acc =
        s.acc.keep (arrivedOf s n) s.line.geometry.jogInterval := evalAccBlocked_acc _
    have stands : (s.acc.keep (arrivedOf s n) s.line.geometry.jogInterval).releaseTimeout = none ∧
        (s.acc.keep (arrivedOf s n) s.line.geometry.jogInterval).state ≠ .releasing := ⟨rfl, nofun⟩
    have dumped : (examDump (evalAccBlocked
        ((s.setAcc (s.acc.keep (arrivedOf s n) s.line.geometry.jogInterval)).setFolder f))).acc.releaseTimeout = none ∧
        (examDump (evalAccBlocked
          ((s.setAcc (s.acc.keep (arrivedOf s n) s.line.geometry.jogInterval)).setFolder f))).acc.state ≠ .releasing := by
      unfold examDump
      split
      · rw [startDump_acc, acc]
        exact ⟨rfl, nofun⟩
      · rw [acc]
        exact stands
    refine ⟨after .folder (by decide), dumped.1, dumped.2, fun others unassigned => ?_, base.comp after (by decide)
      (by decide), (OnlyRaised.of_same base (by decide)).trans ((evalAccBlocked_onlyRaised _).trans
        (examDump_onlyRaised _))⟩
    rw [others, unassigned] at kept
    exact absurd rfl kept

/-- Settles O54: the released set enters an IDLE folder; any other entry faults the line. -/
theorem folderEntryTakesTheReleasedSet : Obligations.FolderEntryTakesTheReleasedSet := by
  unfold Obligations.FolderEntryTakesTheReleasedSet
  intro s open_
  rw [exec_folderEntry, input_open _ open_]
  have begun : SameExcept [.ev] s s.begin := setEv_same _
  refine ⟨fun n idle releasing held => ⟨_, rfl, ?_⟩, fun running spurious => ⟨_, rfl, ?_⟩⟩
  · have rule := enterFolder_enters (s := s.begin) idle releasing held
    obtain ⟨folder, timeout, over_, emptied, changed, asked⟩ := endRelease_ends n
      { s.begin.folder with state := .folding, set := some n, timer := msTimer s.begin.line.geometry.foldTimeout } s.begin
    rw [← rule] at folder timeout over_ emptied changed asked
    have same := event_of_settled asked.settled
    have acc := same .acc (by decide)
    refine ⟨(same .folder (by decide)).trans folder, by rw [acc]; exact timeout, by rw [acc]; exact over_,
      fun others unassigned => ?_, (begun.comp changed (n := [.links, .acc, .folder, .line, .ev]) (by decide)
        (by decide)).comp same (by decide) (by decide)⟩
    rw [acc, emptied others unassigned]
    exact ⟨rfl, rfl, rfl, rfl⟩
  · obtain ⟨faults, same⟩ := event_faults running (enterFolder_spurious (s := s.begin) spurious) (.refl _) rfl
    exact ⟨faults, begun.comp same (by decide) (by decide)⟩

/-! ### The belt joined (R131, R133, R134, R139) -/

theorem exec_foldExit (s : State) : exec .foldExit s = .next (input leaveFolder s) := rfl

theorem leaveFolder_folding {n : Nat} (folding : s.folder.state = .folding) (set : s.folder.set = some n) :
    leaveFolder s = passFold n s := by
  unfold leaveFolder
  rw [folding, set]

theorem leaveFolder_faulted {n : Nat} (faulted : s.folder.state = .faulted) (set : s.folder.set = some n) :
    leaveFolder s = lateExit n s := by
  unfold leaveFolder
  rw [faulted, set]

theorem leaveFolder_spurious (h : s.folder.state = .idle ∨ s.folder.set = none) :
    leaveFolder s = lineFault .jamFolder none s := by
  unfold leaveFolder
  split
  · rename_i folding set
    exact absurd h (by simp [folding, set])
  · rename_i faulted set
    exact absurd h (by simp [faulted, set])
  · rfl

/-- What joining the belt leaves: the set at the tail of the Belt Queue, the folder as given, the set ON_BELT if it was
FOLDING. -/
structure JoinsBelt (n : Nat) (f : Folder) (s t : State) : Prop where
  queue : t.belt.queue = s.belt.queue ++ [n]
  folder : t.folder = f
  folded : ∀ r, s.findSet n = some r → r.state = .folding → t.findSet n = some { r with state := .onBelt }
  kept : ∀ r, s.findSet n = some r → r.state ≠ .folding → t.findSet n = some r
  same : SameExcept [.table, .folder, .belt] s t

theorem leaveTo_same (n : Nat) (f : Folder) (s : State) : SameExcept [.folder, .belt] s (leaveTo n f s) :=
  (setFolder_same _).comp (setBelt_same _) (by decide) (by decide)

/-- The tail of the Belt Queue taken, the belt travel timer started for a new head. -/
theorem joinTail_joins (n : Nat) (f : Folder) (s : State) (first : Bool) :
    (if first then startTravel (notAtEnd (leaveTo n f s)) else leaveTo n f s).belt.queue = s.belt.queue ++ [n] ∧
      (if first then startTravel (notAtEnd (leaveTo n f s)) else leaveTo n f s).folder = f ∧
      SameExcept [.folder, .belt] s (if first then startTravel (notAtEnd (leaveTo n f s)) else leaveTo n f s) := by
  cases first with
  | false => exact ⟨rfl, rfl, leaveTo_same n f s⟩
  | true => exact ⟨rfl, rfl, ((leaveTo_same n f s).comp (setBelt_same _) (n := [.folder, .belt]) (by decide)
      (by decide)).comp (setBelt_same _) (by decide) (by decide)⟩

theorem joinBelt_eq (n : Nat) (f : Folder) (s : State) : joinBelt n f s =
    if s.belt.queue.isEmpty then
      startTravel (notAtEnd (leaveTo n f (if s.setState n = some .folding then putSetState n .onBelt s else s)))
    else leaveTo n f (if s.setState n = some .folding then putSetState n .onBelt s else s) := rfl

theorem joinBelt_joins (n : Nat) (f : Folder) (s : State) : JoinsBelt n f s (joinBelt n f s) := by
  rw [joinBelt_eq]
  obtain ⟨queue, folder, same⟩ := joinTail_joins n f
    (if s.setState n = some .folding then putSetState n .onBelt s else s) s.belt.queue.isEmpty
  have put : SameExcept [.table] s (if s.setState n = some .folding then putSetState n .onBelt s else s) := by
    split
    · exact putSetState_same _ _ _
    · exact .refl s
  refine ⟨?_, folder, fun r found folding => ?_, fun r found other => ?_, put.comp same (by decide) (by decide)⟩
  · rw [queue, put .belt (by decide)]
  · refine (findSet_of_table (same .table (by decide)) n).trans ?_
    rw [if_pos (by unfold State.setState; rw [found, Option.map_some, folding])]
    exact findSet_putSetState_self .onBelt found (by rw [folding]; rfl)
  · refine (findSet_of_table (same .table (by decide)) n).trans ?_
    rw [if_neg (by unfold State.setState; rw [found, Option.map_some]; exact fun e => other (Option.some.inj e))]
    exact found

/-- A hand-over starts for no set but a COLLECTED one. -/
theorem examHandOver_found {n : Nat} {r : SetRec} (found : s.findSet n = some r) (other : r.state ≠ .collected) :
    (examHandOver s).findSet n = some r := by
  rw [examHandOver_findSet s n, found]
  rintro x held collected rfl
  rw [(heldRec_found held).1] at found
  cases found
  exact other collected

theorem examHandOver_folder (s : State) :
    (examHandOver s).folder = { s.folder with handed := (examHandOver s).folder.handed } :=
  ((Moves.here (c := .inner) (g := false) s).examHandOver).inner_folder

theorem passFold_eq (n : Nat) (s : State) : passFold n s = examHandOver ((joinBelt n
    { s.folder.record n true with state := .idle, set := none, timer := none } s).withTally Tally.folded) := rfl

theorem passFold_folder (n : Nat) (s : State) : (passFold n s).folder =
    { s.folder.record n true with
      state := .idle, set := none, timer := none, handed := (passFold n s).folder.handed } := by
  have joins := joinBelt_joins n { s.folder.record n true with state := .idle, set := none, timer := none } s
  have folder : ((joinBelt n { s.folder.record n true with state := .idle, set := none, timer := none } s).withTally
      Tally.folded).folder = _ := joins.folder
  rw [passFold_eq, examHandOver_folder, folder]

/-- Settles O55: the set passes to the belt, PASS recorded; a late exit passes it with nothing recorded; a spurious exit
faults the line. -/
theorem foldExitPutsTheSetOnTheBelt : Obligations.FoldExitPutsTheSetOnTheBelt := by
  unfold Obligations.FoldExitPutsTheSetOnTheBelt
  intro s open_
  rw [exec_foldExit, input_open _ open_]
  refine ⟨fun n set => ⟨fun folding => ⟨_, rfl, ?_⟩, fun faulted => ⟨_, rfl, ?_⟩⟩, fun spurious =>
    ⟨fun running => ⟨_, rfl, ?_⟩, fun faulted => ?_⟩⟩
  · have rule : leaveFolder s.begin = _ := (leaveFolder_folding (s := s.begin) folding set).trans (passFold_eq n s.begin)
    have joins := joinBelt_joins n
      { s.begin.folder.record n true with state := .idle, set := none, timer := none } s.begin
    have asked : OnlyRaised s.begin (leaveFolder s.begin) := by
      rw [rule]
      exact (OnlyRaised.of_same (joins.same.comp (setLine_same _) (n := [.table, .folder, .belt, .line]) (by decide)
        (by decide)) (by decide)).trans (examHandOver_onlyRaised _)
    have same := event_of_settled asked.settled
    have inFolder : (event leaveFolder s).folder = (leaveFolder s.begin).folder := same .folder (by decide)
    rw [leaveFolder_folding (s := s.begin) folding set, passFold_folder] at inFolder
    have found : ∀ r, (joinBelt n { s.begin.folder.record n true with state := .idle, set := none, timer := none }
        s.begin).findSet n = some r → r.state ≠ .collected → (event leaveFolder s).findSet n = some r := fun r at_n no => by
      rw [event_findSet_of_settled asked.settled, rule]
      exact examHandOver_found (s := (joinBelt n _ s.begin).withTally Tally.folded) at_n no
    refine ⟨by rw [inFolder], by rw [inFolder], by rw [inFolder], by rw [inFolder]; rfl, by rw [inFolder]; rfl, ?_, ?_,
      fun r at_n state => found _ (joins.folded r at_n state) nofun,
      fun r at_n state => found _ (joins.kept r at_n (by rw [state]; nofun)) (by rw [state]; nofun)⟩
    · rw [same .belt (by decide), rule, examHandOver_belt]
      exact joins.queue
    · rw [same .line (by decide), rule, (examHandOver_keepsOutcomes _).tally]
      show Tally.folded (joinBelt n _ s.begin).line.tally = _
      rw [joins.same .line (by decide)]
      rfl
  · have rule : leaveFolder s.begin = joinBelt n { s.begin.folder with set := none } s.begin :=
      leaveFolder_faulted (s := s.begin) faulted set
    have joins := joinBelt_joins n { s.begin.folder with set := none } s.begin
    have asked : OnlyRaised s.begin (leaveFolder s.begin) := by
      rw [rule]
      exact OnlyRaised.of_same joins.same (by decide)
    have same := event_of_settled asked.settled
    rw [rule] at same
    exact ⟨(same .folder (by decide)).trans joins.folder, by rw [same .belt (by decide)]; exact joins.queue,
      (same .line (by decide)).trans (joins.same .line (by decide))⟩
  · obtain ⟨faults, same⟩ := event_faults running (leaveFolder_spurious (s := s.begin) spurious) (.refl _) rfl
    have begun : SameExcept [.ev] s s.begin := setEv_same _
    exact ⟨faults, begun.comp same (by decide) (by decide)⟩
  · have rule : leaveFolder s.begin = _ := (leaveFolder_spurious (s := s.begin) spurious).trans
      (lineFault_further (s := s.begin) .jamFolder none faulted)
    rw [event_idle _ (by rw [rule]; rfl), rule]
    rfl

end Sys2Proof.Machine
end

section
/-! PROOFS. The belt end and the belt gate (sections 8.3 and 8.4), GUARD (section 9.3), and the expiries that reject a set
(sections 6.3, 7.3 and 8.6). -/

namespace Sys2Proof.Machine

variable {s t u v : State}

/-! ### The belt end (R141, R142, R146) -/

theorem exec_beltEnd (s : State) : exec .beltEnd s = .next (input reachEnd s) := rfl

/-- The belt as its head comes to the end. -/
def Delivery.arrived (b : Delivery) : Delivery := { b with atEnd := true, travel := none, travelPaused := false }

theorem reachEnd_head {n : Nat} {rest : List Nat} (queue : s.belt.queue = n :: rest) (away : s.belt.atEnd = false) :
    reachEnd s = routeHead n (s.setBelt s.belt.arrived) := by
  unfold reachEnd
  rw [queue, away]
  rfl

theorem reachEnd_empty (queue : s.belt.queue = []) : reachEnd s = lineFault .jamBelt none s := by
  unfold reachEnd
  rw [queue]

theorem routeHead_offers {n : Nat} {r : SetRec} (found : s.findSet n = some r) (good : r.state ≠ .rejecting)
    (deliver : routesDivert r.program = false) (ready : s.belt.readiness = .ready) (free : s.belt.offered = none) :
    routeHead n s = makeOffer n s := by
  unfold routeHead
  rw [found]
  dsimp only
  rw [if_neg good, deliver, if_neg (by simp), if_pos ⟨ready, free⟩]

theorem routeHead_diverts {n : Nat} {r : SetRec} (found : s.findSet n = some r) (good : r.state ≠ .rejecting)
    (divert : routesDivert r.program = true) :
    routeHead n s = wantBeltGate (recordCause n .routed (stepIndex .route r.program) s) := by
  unfold routeHead
  rw [found]
  dsimp only
  rw [if_neg good, divert, if_pos rfl]

/-- A set that the machine holds takes a cause, and a belt gate stroke is wanted for it. -/
theorem wantBeltGate_rejects {n : Nat} {r : SetRec} (c : SetCause) (i : Option Nat) (found : s.findSet n = some r)
    (opens : r.open = true) (none : NoneToTurn n s)
    (held : s.acc.held = some n ∨ s.folder.set = some n ∨ n ∈ s.belt.queue) :
    (wantBeltGate (recordCause n c i s)).findSet n =
        some { r with state := .rejecting, cause := some c, failingStep := i } ∧
      (wantBeltGate (recordCause n c i s)).ev = { s.ev with dumpExam := true } ∧
      SameExcept [.table, .acc, .track, .belt, .ev] s (wantBeltGate (recordCause n c i s)) ∧
      GateWanted s.line.guard s.line.geometry.actuatorTimeout s.belt (wantBeltGate (recordCause n c i s)).belt := by
  have rejects := recordCause_rejects c i found opens none held
  have wants := wantBeltGate_wanted (recordCause n c i s)
  have wanted := wantBeltGate_same (recordCause n c i s)
  rw [rejects.same .line (by decide), rejects.same .belt (by decide)] at wants
  exact ⟨(findSet_of_table (wanted .table (by decide)) n).trans rejects.found,
    (wanted .ev (by decide)).trans rejects.ev, rejects.same.comp wanted (by decide) (by decide), wants⟩

/-- What an event that only asked for the dump to be examined leaves. -/
theorem event_dump {rule : State → State} (ev : (rule s.begin).ev = { Event.none with
    raised := (rule s.begin).ev.raised, dumpExam := (rule s.begin).ev.dumpExam }) :
    SameExcept [.links, .acc, .line, .ev] (rule s.begin) (event rule s) ∧
      (∀ n, (event rule s).findSet n = (rule s.begin).findSet n) ∧
      settle (rule s.begin) = examDumpIf (rule s.begin) := by
  have settled := settle_dump (s := rule s.begin) (by rw [ev]; rfl) (by rw [ev]; rfl) (by rw [ev]; rfl)
  have same := event_same rule s
  rw [settled] at same
  refine ⟨(examDumpIf_same _).comp same (by decide) (by decide), fun n => ?_, settled⟩
  rw [event_findSet, settled, examDumpIf_findSet]

/-- Settles O56: the head is offered, or rejected with a gate stroke wanted; an empty belt has no head to come. -/
theorem beltEndRoutesTheHead : Obligations.BeltEndRoutesTheHead := by
  unfold Obligations.BeltEndRoutesTheHead
  intro s open_
  rw [exec_beltEnd, input_open _ open_]
  have begun : SameExcept [.ev] s s.begin := setEv_same _
  refine ⟨fun n rest r queue away found onBelt deliver ready free => ⟨_, rfl, ?_⟩,
    fun n rest r queue away found onBelt divert good none closed idle => ⟨_, rfl, ?_⟩,
    fun queue running => ⟨_, rfl, ?_⟩⟩
  · have rule : reachEnd s.begin = makeOffer n (s.begin.setBelt s.begin.belt.arrived) :=
      (reachEnd_head (s := s.begin) queue away).trans (routeHead_offers (s := s.begin.setBelt s.begin.belt.arrived) found
        (by rw [onBelt]; nofun) deliver ready free)
    have asked : OnlyRaised s.begin (reachEnd s.begin) := by
      rw [rule]
      exact (OnlyRaised.of_same (setBelt_same s.begin.belt.arrived) (by decide)).trans (makeOffer_onlyRaised n _)
    have same := event_of_settled asked.settled
    refine ⟨?_, ?_, ?_, ?_⟩
    · rw [same .belt (by decide), rule, makeOffer_belt]
      rfl
    · rw [event_findSet_of_settled asked.settled, rule]
      exact makeOffer_findSet (s := s.begin.setBelt s.begin.belt.arrived) found (by rw [onBelt]; rfl)
    · rw [event_pending, asked.settled.settle_eq, rule]
      exact makeOffer_pending _ _
    · rw [rule] at same
      exact ((begun.comp (setBelt_same s.begin.belt.arrived) (n := [.belt, .ev]) (by decide) (by decide)).comp
        (makeOffer_same n _) (n := [.links, .table, .belt, .ev]) (by decide) (by decide)).comp same (by decide) (by decide)
  · have rule : reachEnd s.begin = wantBeltGate (recordCause n .routed (stepIndex .route r.program)
        (s.begin.setBelt s.begin.belt.arrived)) :=
      (reachEnd_head (s := s.begin) queue away).trans (routeHead_diverts (s := s.begin.setBelt s.begin.belt.arrived) found
        (by rw [onBelt]; nofun) divert)
    have opens : r.open = true := by simp [SetRec.open, onBelt, good, SetState.mayFail]
    have head : n ∈ (s.begin.setBelt s.begin.belt.arrived).belt.queue := by
      show n ∈ s.belt.queue
      rw [queue]
      exact List.mem_cons_self ..
    obtain ⟨rejected, ev, same, gate⟩ := wantBeltGate_rejects (s := s.begin.setBelt s.begin.belt.arrived) .routed
      (stepIndex .route r.program) found opens none (.inr (.inr head))
    rw [← rule] at rejected ev gate
    obtain ⟨after, records, -⟩ := event_dump (s := s) (rule := reachEnd) (by rw [ev]; rfl)
    have belt := after .belt (by decide)
    refine ⟨(records n).trans rejected, ?_, ?_, ?_⟩
    · rw [belt, gate.only]; rfl
    · rw [belt]; exact (gate.starts closed idle).1
    · rw [belt, gate.only]; rfl
  · obtain ⟨faults, same⟩ := event_faults running (reachEnd_empty (s := s.begin) queue) (.refl _) rfl
    exact ⟨faults, begun.comp same (by decide) (by decide)⟩

/-! ### The belt gate (R143, R144, R7) -/

theorem exec_beltGateStroke (s : State) : exec .beltGateStroke s = .next (event examBeltGate s) := rfl

theorem exec_beltGateDone (s : State) : exec .beltGateDone s = .next (input endGate s) := rfl

theorem examBeltGate_starts (wanted : s.belt.strokeWanted = true) (free : s.belt.stroke = false)
    (closed : s.line.guard = .closed) : examBeltGate s = s.setBelt { s.belt with
      strokeWanted := false
      stroke := true
      gateTimeout := some (s.line.geometry.actuatorTimeout * 1000) } := by
  unfold examBeltGate
  rw [wanted, free, closed]
  rfl

/-- The belt freed of its head at the gate done. -/
def gateFreed (s : State) : State := leaveBelt (s.setBelt { s.belt with stroke := false, gateTimeout := none })

theorem endGate_ends {n : Nat} {rest : List Nat} (stroke : s.belt.stroke = true) (queue : s.belt.queue = n :: rest) :
    endGate s = examHandOver (testDiverted n (gateFreed s)) := by
  unfold endGate
  rw [stroke, queue]
  rfl

theorem gateFreed_same (s : State) : SameExcept [.belt] s (gateFreed s) :=
  (setBelt_same _).comp (leaveBelt_same _) (by decide) (by decide)

theorem gateFreed_belt {n : Nat} {rest : List Nat} (queue : s.belt.queue = n :: rest) :
    (gateFreed s).belt.queue = rest ∧ (gateFreed s).belt.stroke = false ∧ (gateFreed s).belt.gateTimeout = none := by
  refine ⟨?_, rfl, rfl⟩
  show s.belt.queue.tail = rest
  rw [queue]
  rfl

/-- An event that ended one set, which is not the held set: it joins the Completion Order, and the tally is as the event's
own rule left it. -/
theorem settle_one {n : Nat} {r : SetRec} (found : s.findSet n = some r) (terminal : r.state.terminal = true)
    (ended : s.ev.ended = [n]) (plan : s.ev.planWanted = false) :
    (settle s).findSet n = some r ∧ (settle s).table.completion = s.table.completion ++ [n] ∧
      (settle s).line.tally = s.line.tally ∧ (settle s).belt = s.belt := by
  have notWaiting : ∀ x, s.heldRec = some x → x.state = .waiting → x.number ≠ n := by
    rintro x held waits rfl
    rw [(heldRec_found held).1] at found
    cases found
    rw [waits] at terminal
    cases terminal
  have keeps := examAsked_keepsOutcomes s
  have settled : settle s = flushEnded (examAsked s) := by
    unfold settle
    rw [replan_idle plan]
  refine ⟨(settle_findSet n plan fun _ => notWaiting).trans found, ?_, ?_, settle_same plan .belt (by decide)⟩
  · rw [settled, flushEnded_completion, keeps.completion, keeps.ended, ended]
    rfl
  · rw [settled, flushEnded_same _ .line (by decide)]
    exact keeps.tally

/-- Settles O57: the stroke starts; at its end the head leaves the belt, is tested, and ends. -/
theorem beltGateDiverts : Obligations.BeltGateDiverts := by
  unfold Obligations.BeltGateDiverts
  refine fun s => ⟨fun wanted free closed => ?_,
    fun n rest r open_ stroke queue once found rejecting sheets held others folder => ?_⟩
  · have rule := examBeltGate_starts (s := s.begin) wanted free closed
    rw [exec_beltGateStroke, event_idle _ (by rw [rule]; rfl), rule]
    rfl
  · have rule := endGate_ends (s := s.begin) stroke queue
    have freed := gateFreed_same s.begin
    obtain ⟨rest', idle, timeout⟩ := gateFreed_belt (s := s.begin) queue
    have out : holdsSet (gateFreed s.begin) n = false := by
      have sheets' : ∀ e ∈ s.begin.track.list, ¬ e.set = some n := sheets
      have held' : ¬ s.begin.acc.held = some n := held
      have others' : n ∉ s.begin.acc.others := others
      have folder' : ¬ s.begin.folder.set = some n := folder
      unfold holdsSet
      rw [freed .track (by decide), freed .acc (by decide), freed .folder (by decide), rest']
      simpa [held', others', folder', once] using sheets'
    have found' : (gateFreed s.begin).findSet n = some r :=
      (findSet_of_table (freed .table (by decide)) n).trans found
    have alive : r.state.terminal = false := by rw [rejecting]; rfl
    have test : testDiverted n (gateFreed s.begin) = makeTerminal n .diverted (gateFreed s.begin) :=
      testDiverted_rejecting (by unfold State.setState; rw [found', Option.map_some, rejecting]) out
    rw [test] at rule
    have asked := examHandOver_onlyRaised (makeTerminal n .diverted (gateFreed s.begin))
    have ev := makeTerminal_ev .diverted found' alive
    have line := makeTerminal_line .diverted found' alive
    have keeps := examHandOver_keepsOutcomes (makeTerminal n .diverted (gateFreed s.begin))
    rw [← rule] at asked keeps
    have diverted : (endGate s.begin).findSet n = some { r with state := .diverted } := by
      rw [rule]
      exact examHandOver_found (makeTerminal_found .diverted found' alive) nofun
    obtain ⟨record, completion, tally, belt⟩ := settle_one diverted rfl (by rw [asked, ev]; rfl) (by rw [asked, ev]; rfl)
    have same := event_same endGate s
    have after : (event endGate s).belt = (gateFreed s.begin).belt := by
      rw [same .belt (by decide), belt, rule, examHandOver_belt, makeTerminal_same _ _ _ .belt (by decide)]
    rw [exec_beltGateDone, input_open _ open_]
    refine ⟨_, rfl, by rw [after]; exact rest', by rw [after]; exact idle, by rw [after]; exact timeout, ?_, ?_, ?_⟩
    · rw [event_findSet]; exact record
    · rw [same .table (by decide), completion, keeps.completion, (makeTerminal_queues .diverted found' alive).1,
        freed .table (by decide)]
      rfl
    · rw [same .line (by decide), tally, keeps.tally, line, freed .line (by decide)]
      rfl

end Sys2Proof.Machine
end

section
/-! PROOFS. The expiries that reject a set (sections 6.3, 7.3 and 8.6), GUARD (section 9.3) and arrivals (section 6.2). -/

namespace Sys2Proof.Machine

variable {s t u v : State}

/-! ### The expiries (R113, R132, R149) -/

theorem exec_holdTimerExpiry (s : State) : exec .holdTimerExpiry s = .next (event expireHold s) := rfl

theorem exec_foldTimerExpiry (s : State) : exec .foldTimerExpiry s = .next (event expireFold s) := rfl

theorem exec_offerTimerExpiry (s : State) : exec .offerTimerExpiry s = .next (event expireOffer s) := rfl

theorem expireHold_runs {n : Nat} {r : SetRec} (running : s.acc.holdTimer.isSome) (inBin : s.acc.held = some n)
    (found : s.findSet n = some r) (held : r.state = .held) :
    expireHold s = recordCause n .holdExpired (stepIndex .hold r.program)
      (s.setAcc { s.acc with holdTimer := none }) := by
  obtain ⟨x, timer⟩ := Option.isSome_iff_exists.mp running
  unfold expireHold
  rw [timer, heldRec_of_held inBin found]
  dsimp only
  rw [if_pos held, findSet_number found]

theorem jamIndex_found {n : Nat} {r : SetRec} (found : s.findSet n = some r) : jamIndex n s = foldFailIndex r.program := by
  unfold jamIndex
  rw [found]
  rfl

/-- The folder as a fold ends FAIL. -/
def Folder.jammed (f : Folder) (n : Nat) : Folder := { f.record n false with state := .faulted, timer := none }

theorem expireFold_runs {n : Nat} {r : SetRec} (running : s.folder.timer.isSome) (folding : s.folder.state = .folding)
    (set : s.folder.set = some n) (found : s.findSet n = some r) :
    expireFold s = lineFault .jamFolder (some n)
      (recordCause n .foldJam (foldFailIndex r.program) (s.setFolder (s.folder.jammed n))) := by
  obtain ⟨x, timer⟩ := Option.isSome_iff_exists.mp running
  unfold expireFold
  rw [timer, folding, set]
  dsimp only
  rw [jamIndex_found found]
  rfl

theorem expireOffer_runs {n : Nat} {r : SetRec} (running : s.belt.offerTimer.isSome) (offered : s.belt.offered = some n)
    (found : s.findSet n = some r) :
    expireOffer s = wantBeltGate (raiseCond .withdrawn (.setNumber n)
      (recordCause n .offerExpired (stepIndex .route r.program) (endOffer s))) := by
  obtain ⟨x, timer⟩ := Option.isSome_iff_exists.mp running
  unfold expireOffer
  rw [timer, offered]
  dsimp only
  unfold expireOfferOf
  rw [routeIndex_found found]

theorem examDumpIf_acc (s : State) : (examDumpIf s).acc.held = s.acc.held ∧
    (examDumpIf s).acc.holdTimer = s.acc.holdTimer := by
  unfold examDumpIf examDump
  split
  · split
    · rw [startDump_acc]
      exact ⟨rfl, rfl⟩
    · exact ⟨rfl, rfl⟩
  · exact ⟨rfl, rfl⟩

/-- The hold timer of the HELD set runs out. -/
theorem holdExpiry_rejects {n : Nat} {r : SetRec} (found : s.findSet n = some r) (good : r.cause = none)
    (none : NoneToTurn n s) (running : s.acc.holdTimer.isSome) (inBin : s.acc.held = some n) (held : r.state = .held) :
    (event expireHold s).findSet n =
        some { r with state := .rejecting, cause := some .holdExpired, failingStep := stepIndex .hold r.program } ∧
      (event expireHold s).acc.held = some n ∧ (event expireHold s).acc.holdTimer = Option.none ∧
      (event expireHold s).web = s.web ∧ (event expireHold s).reader = s.reader ∧ (event expireHold s).belt = s.belt := by
  have rule := expireHold_runs (s := s.begin) running inBin found held
  have opens : r.open = true := by simp [SetRec.open, held, good, SetState.mayFail]
  have rejects := recordCause_rejects (s := s.begin.setAcc { s.begin.acc with holdTimer := Option.none }) .holdExpired
    (stepIndex .hold r.program) found opens none (.inl inBin)
  rw [← rule] at rejects
  obtain ⟨after, records, settled⟩ := event_dump (s := s) (rule := expireHold) (by rw [rejects.ev]; rfl)
  have same := event_same expireHold s
  rw [settled] at same
  have acc : (expireHold s.begin).acc.held = some n ∧ (expireHold s.begin).acc.holdTimer = Option.none := by
    rw [rejects.acc]
    refine ⟨inBin, ?_⟩
    dsimp only
    split <;> rfl
  obtain ⟨binKept, timerKept⟩ := examDumpIf_acc (expireHold s.begin)
  refine ⟨(records n).trans rejects.found, ?_, ?_, (after .web (by decide)).trans (rejects.same .web (by decide)),
    (after .reader (by decide)).trans (rejects.same .reader (by decide)),
    (after .belt (by decide)).trans (rejects.same .belt (by decide))⟩
  · rw [same .acc (by decide), binKept]; exact acc.1
  · rw [same .acc (by decide), timerKept]; exact acc.2

/-- The fold timer runs out in FOLDING. -/
theorem foldExpiry_jams {n : Nat} {r : SetRec} (found : s.findSet n = some r) (good : r.cause = none)
    (none : NoneToTurn n s) (running : s.folder.timer.isSome) (folding : s.folder.state = .folding)
    (set : s.folder.set = some n) (state : r.state = .folding) (line : s.line.state ≠ .faulted) :
    (event expireFold s).folder = s.folder.jammed n ∧
      (event expireFold s).findSet n =
        some { r with state := .rejecting, cause := some .foldJam, failingStep := foldFailIndex r.program } ∧
      FaultsWith .jamFolder (some n) s (event expireFold s) := by
  have rule := expireFold_runs (s := s.begin) running folding set found
  have opens : r.open = true := by simp [SetRec.open, state, good, SetState.mayFail]
  have inFolder : (s.begin.setFolder (s.begin.folder.jammed n)).folder.set = some n := set
  have rejects := recordCause_rejects (s := s.begin.setFolder (s.begin.folder.jammed n)) .foldJam
    (foldFailIndex r.program) found opens none (.inr (.inl inFolder))
  obtain ⟨-, ev, changed⟩ := faultCause_changes (v := s.begin.setFolder (s.begin.folder.jammed n)) .jamFolder .foldJam
    (foldFailIndex r.program) none (.inr (.inl inFolder)) rule
  obtain ⟨after, records, -⟩ := event_dump (s := s) (rule := expireFold) ev
  have faulted : FaultedWith (some .jamFolder) (some n) (event expireFold s).line := by
    refine event_faultedWith ?_
    rw [rule]
    exact lineFault_faultedWith _ _ (by rw [rejects.same .line (by decide)]; exact line)
  refine ⟨(after .folder (by decide)).trans (changed .folder (by decide)), (records n).trans ?_,
    ⟨line, faulted.state, faulted.cause, faulted.set⟩⟩
  rw [rule]
  exact (findSet_of_table (lineFault_same _ _ _ .table (by decide)) n).trans rejects.found

/-- The offer timer runs out. -/
theorem offerExpiry_rejects {n : Nat} {r : SetRec} (found : s.findSet n = some r) (good : r.cause = none)
    (none : NoneToTurn n s) (running : s.belt.offerTimer.isSome) (offered : s.belt.offered = some n)
    (head : s.belt.queue.head? = some n) (state : r.state = .offered) :
    (event expireOffer s).findSet n =
        some { r with state := .rejecting, cause := some .offerExpired, failingStep := stepIndex .route r.program } ∧
      (event expireOffer s).isPending .withdrawn = true ∧ (event expireOffer s).isPending .offer = false ∧
      GateWanted s.line.guard s.line.geometry.actuatorTimeout
        { s.belt with offered := Option.none, offerTimer := Option.none } (event expireOffer s).belt := by
  have rule := expireOffer_runs (s := s.begin) running offered found
  have opens : r.open = true := by simp [SetRec.open, state, good, SetState.mayFail]
  have rejects := recordCause_rejects (s := endOffer s.begin) .offerExpired (stepIndex .route r.program) found opens none
    (.inr (.inr (List.mem_of_mem_head? head)))
  have raised := raiseCond_same .withdrawn (.setNumber n)
    (recordCause n .offerExpired (stepIndex .route r.program) (endOffer s.begin))
  have asked := raiseCond_onlyRaised .withdrawn (.setNumber n)
    (recordCause n .offerExpired (stepIndex .route r.program) (endOffer s.begin))
  have wants := wantBeltGate_wanted (raiseCond .withdrawn (.setNumber n)
    (recordCause n .offerExpired (stepIndex .route r.program) (endOffer s.begin)))
  have wanted := wantBeltGate_same (raiseCond .withdrawn (.setNumber n)
    (recordCause n .offerExpired (stepIndex .route r.program) (endOffer s.begin)))
  rw [raised .line (by decide), rejects.same .line (by decide), raised .belt (by decide), rejects.same .belt (by decide),
    ← rule] at wants
  have ev : (expireOffer s.begin).ev = { Event.none with
      raised := (expireOffer s.begin).ev.raised, dumpExam := (expireOffer s.begin).ev.dumpExam } := by
    rw [rule, wanted .ev (by decide), asked, rejects.ev]
    rfl
  obtain ⟨after, records, -⟩ := event_dump (s := s) (rule := expireOffer) ev
  have pending : ∀ c, c.shared = false → (event expireOffer s).isPending c =
      ((endOffer s.begin).isPending c || decide (c = .withdrawn)) := fun c other => by
    rw [event_keepsPending_rule expireOffer s c other, rule, isPending_of_links (wanted .links (by decide)),
      raiseCond_pending, isPending_of_links (rejects.same .links (by decide))]
  refine ⟨(records n).trans ?_, ?_, ?_, ?_⟩
  · rw [rule]
    exact (findSet_of_table (wanted .table (by decide)) n).trans ((raiseCond_findSet _ _ _ n).trans rejects.found)
  · rw [pending .withdrawn rfl]; simp
  · rw [pending .offer rfl, endOffer_pending]; rfl
  · rw [after .belt (by decide)]; exact wants

/-- Settles O47: each expiry stops its timer and gives its set its cause. -/
theorem expiriesRejectTheSet : Obligations.ExpiriesRejectTheSet := by
  unfold Obligations.ExpiriesRejectTheSet
  refine fun n r s found good none => ⟨fun running inBin held =>
    ⟨_, exec_holdTimerExpiry s, holdExpiry_rejects found good none running inBin held⟩,
    fun running folding set state line =>
      ⟨_, exec_foldTimerExpiry s, foldExpiry_jams found good none running folding set state line⟩,
    fun running offered head state => ?_⟩
  obtain ⟨rejected, withdrawn, offer, gate⟩ := offerExpiry_rejects found good none running offered head state
  exact ⟨_, exec_offerTimerExpiry s, rejected, by rw [gate.only], by rw [gate.only], by rw [gate.only], withdrawn, offer,
    fun closed idle => (gate.starts closed idle).1, gate.waits⟩

/-! ### GUARD (R158) -/

theorem exec_guardOpen (s : State) : exec .guardOpen s = .next (input openGuard s) := rfl

theorem exec_guardClose (s : State) : exec .guardClose s = .next (input closeGuard s) := rfl

theorem openGuard_running (closed : s.line.guard = .closed) (running : s.line.state = .running) :
    openGuard s = (lineFault .guardOpen none s).setGuard .opened := by
  unfold openGuard
  rw [closed, running]

theorem openGuard_still (closed : s.line.guard = .closed) (still : s.line.state ≠ .running) :
    openGuard s = s.setGuard .opened := by
  unfold openGuard
  rw [closed]
  split
  · rename_i running
    exact absurd running still
  · rfl
  · rename_i opened
    cases opened

theorem closeGuard_opened (opened : s.line.guard = .opened) :
    closeGuard s = examObligation (examStack (examBeltGate (s.setGuard .closed))) := by
  unfold closeGuard
  rw [opened]

/-- GUARD opens on a RUNNING line. -/
theorem guardOpen_faults (closed : s.line.guard = .closed) (running : s.line.state = .running) :
    FaultsWith .guardOpen none s (event openGuard s) ∧ (event openGuard s).line.guard = .opened ∧
      (event openGuard s).line.stopPoint = s.web.position ∧
      SameExcept [.links, .line, .ev] s (event openGuard s) := by
  have rule := openGuard_running (s := s.begin) closed running
  have other : s.begin.line.state ≠ .faulted := by
    rw [show s.begin.line.state = .running from running]
    nofun
  have line : (openGuard s.begin).line = { (lineFault .guardOpen none s.begin).line with guard := .opened } := by
    rw [rule]
    rfl
  rw [lineFault_enters .guardOpen none other] at line
  have asked : OnlyRaised s.begin (openGuard s.begin) := by
    rw [rule]
    exact (lineFault_onlyRaised _ _ _).trans (.of_same (setLine_same _) (by decide))
  have same := event_of_settled asked.settled
  have after : (event openGuard s).line = _ := (same .line (by decide)).trans line
  have begun : SameExcept [.ev] s s.begin := setEv_same _
  rw [rule] at same
  refine ⟨⟨other, by rw [after], by rw [after], by rw [after]⟩, by rw [after], ?_,
    ((begun.comp (lineFault_same _ _ _) (n := [.links, .line, .ev]) (by decide) (by decide)).comp (setLine_same _)
      (n := [.links, .line, .ev]) (by decide) (by decide)).comp same (by decide) (by decide)⟩
  rw [after]
  exact if_pos running

theorem evalAccBlocked_line (s : State) :
    (evalAccBlocked s).line = { s.line with holds := (evalAccBlocked s).line.holds } := by
  unfold evalAccBlocked
  rw [setHold_line]

theorem examDump_line (s : State) : (examDump s).line = { s.line with holds := (examDump s).line.holds } := by
  unfold examDump
  split
  · exact evalAccBlocked_line _
  · rfl

theorem examHandOver_line (s : State) :
    (examHandOver s).line = { s.line with holds := (examHandOver s).line.holds } := by
  unfold examHandOver
  split
  · split
    · exact evalAccBlocked_line _
    · rfl
  · rfl

/-- The examinations change nothing of the line but its hold-cause set. -/
theorem examStack_line (s : State) : (examStack s).line = { s.line with holds := (examStack s).line.holds } := by
  have squaring : (examStack s).line = (examHandOver (examDump s)).line := examSquaring_same _ .line (by decide)
  rw [squaring, examHandOver_line, examDump_line]

/-- The belt gate examined: only the belt may change, and its queue stays. -/
theorem examBeltGate_examined (s : State) : ∃ b, examBeltGate s = s.setBelt b ∧ b.queue = s.belt.queue ∧
    (s.belt.strokeWanted = true → s.belt.stroke = false → s.line.guard = .closed →
      b.stroke = true ∧ b.gateTimeout = some (s.line.geometry.actuatorTimeout * 1000)) := by
  by_cases may : (s.belt.strokeWanted && !s.belt.stroke && s.line.guard == .closed) = true
  · exact ⟨_, if_pos may, rfl, fun _ _ _ => ⟨rfl, rfl⟩⟩
  · refine ⟨s.belt, if_neg may, rfl, fun wanted free closed => absurd ?_ may⟩
    simp [wanted, free, closed]

theorem canHandOver_setBelt {b : Delivery} (queue : b.queue = s.belt.queue) : canHandOver (s.setBelt b) = canHandOver s := by
  have ready : readySet (s.setBelt b) = readySet s := rfl
  unfold canHandOver
  rw [ready]
  split
  · rfl
  · simp only [State.setBelt_folder, State.setBelt_belt, State.setBelt_acc, State.setBelt_line, queue]

theorem dumpDue_of_collected {r : SetRec} (held : s.heldRec = some r) (collected : r.state = .collected) :
    dumpDue s = false := by
  obtain ⟨found, inBin⟩ := heldRec_found held
  have contents : contentsRejected s = false := by
    unfold contentsRejected State.setState
    rw [inBin]
    simp [found, collected]
  unfold dumpDue
  rw [contents]
  simp

theorem squaringWanted_some {j : Bool} (wanted : squaringWanted s = some j) :
    s.acc.state = .complete ∧ ∃ r, s.heldRec = some r ∧ r.state = .collected ∧
      (r.nextStep = some .jog ∨ (r.nextStep = none ∧ r.needsSquaring = true)) := by
  unfold squaringWanted at wanted
  split at wanted
  · rename_i r complete held
    refine ⟨complete, r, held, ?_⟩
    split at wanted
    · rename_i collected
      refine ⟨collected, ?_⟩
      split at wanted
      · rename_i next
        exact .inl next
      · rename_i next
        split at wanted
        · rename_i needs
          exact .inr ⟨next, needs⟩
        · cases wanted
      · cases wanted
    · cases wanted
  · cases wanted

/-- While a squaring stroke is wanted no hand-over can start. -/
theorem canHandOver_of_squaring {j : Bool} (wanted : squaringWanted s = some j) : canHandOver s = false := by
  obtain ⟨complete, r, held, collected, waits⟩ := squaringWanted_some wanted
  rcases waits with next | ⟨next, needs⟩
  · refine canHandOver_of_readySet ?_
    unfold readySet
    rw [complete, held]
    exact if_neg (by simp [next])
  · have ready : readySet s = some r := by
      unfold readySet
      rw [complete, held]
      exact if_pos ⟨collected, next⟩
    unfold canHandOver
    rw [ready]
    simp [needs]

/-- A dump that is due is all that the examinations start. -/
theorem examAll_dumps (due : dumpDue s = true) : examObligation (examStack s) = startDump s := by
  have state : (startDump s).acc.state = .dumping := by
    rw [startDump_acc]
    rfl
  have other : (startDump s).acc.state ≠ .complete := by rw [state]; nofun
  unfold examStack
  rw [examDump_starts due, examHandOver_waits (canHandOver_of_readySet (readySet_of_state other)),
    examSquaring_waits (squaringWanted_of_state other)]
  exact examObligation_waits (canStroke_of_state ⟨by rw [state]; nofun, other⟩)

/-- A hand-over that can start is all that the examinations start. -/
theorem examAll_handsOver {r : SetRec} (ready : readySet s = some r) (can : canHandOver s = true) :
    examObligation (examStack s) = startHandOver r s := by
  obtain ⟨held, collected⟩ := readySet_held ready
  have state : (startHandOver r s).acc.state = .releasing := by
    rw [startHandOver_acc]
    rfl
  have other : (startHandOver r s).acc.state ≠ .complete := by rw [state]; nofun
  unfold examStack
  rw [examDump_waits (dumpDue_of_collected held collected), examHandOver_starts ready can,
    examSquaring_waits (squaringWanted_of_state other)]
  exact examObligation_waits (canStroke_of_state ⟨by rw [state]; nofun, other⟩)

/-- A wanted squaring stroke that may start is all that the examinations start. -/
theorem examAll_squares {j : Bool} (wanted : squaringWanted s = some j) (free : s.acc.stroke = none)
    (closed : s.line.guard = .closed) : examObligation (examStack s) = startStroke true j s := by
  obtain ⟨complete, r, held, collected, -⟩ := squaringWanted_some wanted
  unfold examStack
  rw [examDump_waits (dumpDue_of_collected held collected), examHandOver_waits (canHandOver_of_squaring wanted),
    examSquaring_starts wanted (canStroke_eq_true (.inr complete) free closed)]
  exact examObligation_waits (canStroke_of_stroke rfl)

/-- The obligation's stroke starts where nothing goes before it. -/
theorem examAll_obliges {full : Bool} (wanted : obligationStroke s = some full) (may : canStroke s = true)
    (noDump : dumpDue s = false) (noRelease : canHandOver s = false) (noSquaring : squaringWanted s = none) :
    examObligation (examStack s) = startStroke full false s := by
  unfold examStack
  rw [examDump_waits noDump, examHandOver_waits noRelease, examSquaring_waits noSquaring]
  exact examObligation_starts wanted may noDump noRelease noSquaring

/-- What GUARD closing leaves as it was, and what it starts. -/
theorem guardClose_starts (opened : s.line.guard = .opened) :
    ∃ b, closeGuard s.begin = examObligation (examStack ((s.setGuard .closed).begin.setBelt b)) ∧
      b.queue = s.belt.queue ∧
      (s.belt.strokeWanted = true → s.belt.stroke = false →
        b.stroke = true ∧ b.gateTimeout = some (s.line.geometry.actuatorTimeout * 1000)) := by
  obtain ⟨b, belt, queue, starts⟩ := examBeltGate_examined (s.setGuard .closed).begin
  refine ⟨b, ?_, queue, fun wanted free => starts wanted free rfl⟩
  rw [closeGuard_opened (s := s.begin) opened]
  exact congrArg (fun x => examObligation (examStack x)) belt

/-- Settles O58: GUARD is read; opening faults a RUNNING line, closing starts what waited. -/
theorem guardIsRead : Obligations.GuardIsRead := by
  unfold Obligations.GuardIsRead
  intro s open_
  rw [exec_guardOpen, exec_guardClose, input_open _ open_, input_open _ open_]
  refine ⟨fun closed running => ⟨_, rfl, guardOpen_faults closed running⟩, fun closed still => ?_,
    fun u opened e => ?_⟩
  · have rule := openGuard_still (s := s.begin) closed still
    rw [event_idle _ (by rw [rule]; rfl), rule]
    rfl
  · subst e
    obtain ⟨b, rule, queue, gate⟩ := guardClose_starts opened
    have changed : SameExcept [.links, .table, .acc, .folder, .line, .ev] ((s.setGuard .closed).begin.setBelt b)
        (closeGuard s.begin) := by
      rw [rule]
      exact (examStack_same _).comp (examObligation_same _) (by decide) (by decide)
    have asked : OnlyRaised s.begin (closeGuard s.begin) := by
      have begun : OnlyRaised s.begin ((s.setGuard .closed).begin.setBelt b) := .of_ev rfl
      rw [rule]
      exact begun.trans ((examStack_onlyRaised _).trans (examObligation_onlyRaised _))
    have same := event_of_settled asked.settled
    have after : SameExcept [.links, .table, .acc, .folder, .line, .ev] ((s.setGuard .closed).begin.setBelt b)
        (event closeGuard s) := changed.comp same (by decide) (by decide)
    have line : (event closeGuard s).line = { s.line with
        guard := .closed, holds := (event closeGuard s).line.holds } := by
      rw [same .line (by decide), rule, examObligation_same _ .line (by decide), examStack_line]
      rfl
    have acc : (event closeGuard s).acc = (examObligation (examStack ((s.setGuard .closed).begin.setBelt b))).acc := by
      rw [same .acc (by decide), rule]
    have can : canHandOver ((s.setGuard .closed).begin.setBelt b) = canHandOver (s.setGuard .closed).begin :=
      canHandOver_setBelt queue
    refine ⟨_, rfl, by rw [line], by rw [line], after .web (by decide), after .reader (by decide),
      after .track (by decide), after .firing (by decide), fun wanted free => ?_, fun due => ?_,
      fun n r held found may => ?_, fun j wanted free => ?_, fun full wanted may noDump noRelease noSquaring => ?_⟩
    · rw [after .belt (by decide)]
      exact gate wanted free
    · rw [acc, examAll_dumps (s := (s.setGuard .closed).begin.setBelt b) due, startDump_acc]
      rfl
    · have may' : canHandOver ((s.setGuard .closed).begin.setBelt b) = true := can.trans may
      obtain ⟨x, ready⟩ := canHandOver_ready may'
      obtain ⟨heldX, collected⟩ := readySet_held ready
      have heldR : ((s.setGuard .closed).begin.setBelt b).heldRec = some r := heldRec_of_held held found
      have same' : x = r := Option.some.inj (heldX.symm.trans heldR)
      subst same'
      have starts := examAll_handsOver ready may'
      refine ⟨?_, ?_⟩
      · rw [acc, starts, startHandOver_acc]
        rfl
      · rw [event_findSet_of_settled asked.settled, rule, starts]
        exact startHandOver_found (s := (s.setGuard .closed).begin.setBelt b) found collected
    · have complete := (squaringWanted_some wanted).1
      rw [acc, examAll_squares (s := (s.setGuard .closed).begin.setBelt b) wanted free rfl]
      have square : (true && s.acc.state == .complete) = true := by
        rw [show s.acc.state = .complete from complete]
        rfl
      show s.acc.strokeStarted true j s.line.geometry.actuatorTimeout = _
      unfold Accumulator.strokeStarted
      rw [square]
    · rw [acc, examAll_obliges (s := (s.setGuard .closed).begin.setBelt b) wanted may noDump (can.trans noRelease)
        noSquaring]
      rfl

/-! ### Arrivals (R105, R106) -/

theorem exec_arrival (s : State) : exec .arrival s = .next (input takeArrival s) := rfl

theorem event_reader {rule : State → State} (h : (rule s.begin).reader = s.reader) : (event rule s).reader = s.reader :=
  ((event_same rule s .reader (by decide)).trans ((Moves.here (c := .inner) (g := false) _).settle.inner_reader)).trans h

theorem evalTrackFull_onlyRaised (s : State) : OnlyRaised s (evalTrackFull s) := by
  unfold evalTrackFull
  split
  · exact setHold_onlyRaised _ _ _
  · split
    · exact setHold_onlyRaised _ _ _
    · exact .refl s

/-- The matched sheet leaves the Transit List, is counted for its set, and may lie askew. -/
def arrived (e : SheetEntry) (s : State) : State := markSkew e (countPage e (evalTrackFull (removeSheet e.id s)))

theorem markSkew_same (e : SheetEntry) (s : State) : SameExcept [.table] s (markSkew e s) := by
  unfold markSkew
  split
  · exact updateSetOpt_same _ _ _
  · exact .refl s

theorem countPage_same (e : SheetEntry) (s : State) : SameExcept [.table] s (countPage e s) := by
  unfold countPage
  split
  · exact updateSetOpt_same _ _ _
  · exact .refl s

theorem arrived_same (e : SheetEntry) (s : State) : SameExcept [.links, .table, .track, .line, .ev] s (arrived e s) :=
  (((setList_same _ s).comp (evalTrackFull_same _) (n := [.links, .track, .line, .ev]) (by decide) (by decide)).comp
    (countPage_same e _) (n := [.links, .table, .track, .line, .ev]) (by decide) (by decide)).comp (markSkew_same e _)
    (by decide) (by decide)

theorem arrived_list (e : SheetEntry) (s : State) :
    (arrived e s).track.list = s.track.list.filter fun x => x.id ≠ e.id := by
  unfold arrived
  rw [markSkew_same _ _ .track (by decide), countPage_same _ _ .track (by decide),
    evalTrackFull_same _ .track (by decide)]
  rfl

theorem arrived_onlyRaised (e : SheetEntry) (s : State) : OnlyRaised s (arrived e s) :=
  (OnlyRaised.of_same (setList_same _ s) (by decide)).trans ((evalTrackFull_onlyRaised _).trans
    ((OnlyRaised.of_same (countPage_same e _) (by decide)).trans (.of_same (markSkew_same e _) (by decide))))

theorem arrived_found {e : SheetEntry} {n : Nat} {r : SetRec} (set : e.set = some n) (page : e.page.isSome)
    (found : s.findSet n = some r) :
    ∃ askew, (arrived e s).findSet n = some { r with pagesArrived := r.pagesArrived + 1, skewed := askew } := by
  obtain ⟨p, paged⟩ := Option.isSome_iff_exists.mp page
  have cleared : (evalTrackFull (removeSheet e.id s)).findSet n = some r :=
    (findSet_of_table (evalTrackFull_same (removeSheet e.id s) .table (by decide)) n).trans found
  have counted : (countPage e (evalTrackFull (removeSheet e.id s))).findSet n =
      some { r with pagesArrived := r.pagesArrived + 1 } := by
    unfold countPage updateSetOpt
    rw [paged, set]
    exact findSet_updateSet_self (fun r => { r with pagesArrived := r.pagesArrived + 1 }) (fun _ => rfl) cleared
  unfold arrived markSkew updateSetOpt
  rw [set]
  split
  · exact ⟨true, findSet_updateSet_self (fun r => { r with skewed := true }) (fun _ => rfl) counted⟩
  · exact ⟨r.skewed, counted⟩

theorem matchedEntry_within {e : SheetEntry} (oldest : s.oldestAccumulate = some e)
    (inWindow : within s.line.geometry.arrivalTol s.web.position e.accArrival = true) : matchedEntry s = some e := by
  unfold matchedEntry
  rw [oldest]
  exact if_pos inWindow

theorem matchedEntry_none
    (outside : ∀ e, s.oldestAccumulate = some e → within s.line.geometry.arrivalTol s.web.position e.accArrival = false) :
    matchedEntry s = none := by
  unfold matchedEntry
  split
  · rename_i e oldest
    rw [outside e oldest, if_neg (by simp)]
  · rfl

theorem takeArrival_matched {e : SheetEntry} (h : matchedEntry s = some e) :
    takeArrival s = evalAccBlocked (examObligation (examStack (matchArrival e s))) := by
  unfold takeArrival
  rw [h]

theorem takeArrival_stray (h : matchedEntry s = none) :
    takeArrival s = evalAccBlocked (examObligation (examStack (strayArrival s))) := by
  unfold takeArrival
  rw [h]

theorem matchArrival_empty (e : SheetEntry) (empty : s.acc.state = .empty) :
    matchArrival e s = checkComplete (openBin e.set (arrived e s)) := by
  unfold matchArrival
  rw [empty]
  rfl

theorem checkComplete_more {r : SetRec} (held : s.heldRec = some r) (more : r.pagesArrived ≠ r.pages) :
    checkComplete s = s := by
  unfold checkComplete
  rw [held]
  split
  · rename_i x _ same
    cases same
    exact if_neg fun e => more e.2.2
  · rfl

/-- The obligation examined starts a stroke, or does nothing. -/
theorem examObligation_acc (s : State) : (examObligation s).acc = { s.acc with
    stroke := (examObligation s).acc.stroke
    jogInterval := (examObligation s).acc.jogInterval
    jogTimeout := (examObligation s).acc.jogTimeout } := by
  unfold examObligation
  split
  · rfl
  · split <;> rfl

/-- A matched arrival in an EMPTY accumulator, with pages of its set still to come. -/
theorem arrival_collected {e : SheetEntry} {n : Nat} {r : SetRec} (oldest : s.oldestAccumulate = some e)
    (inWindow : within s.line.geometry.arrivalTol s.web.position e.accArrival = true) (empty : s.acc.state = .empty)
    (set : e.set = some n) (page : e.page.isSome) (found : s.findSet n = some r) (active : r.state = .active)
    (more : r.pagesArrived + 1 < r.pages) :
    ∃ askew, (takeArrival s).findSet n = some { r with pagesArrived := r.pagesArrived + 1, skewed := askew } ∧
      (takeArrival s).acc = { s.acc with
        state := .collecting
        held := some n
        sheets := s.acc.sheets + 1
        stroke := (takeArrival s).acc.stroke
        jogInterval := (takeArrival s).acc.jogInterval
        jogTimeout := (takeArrival s).acc.jogTimeout } ∧
      (takeArrival s).track.list = (s.track.list.filter fun x => x.id ≠ e.id) ∧
      SameExcept [.links, .table, .track, .acc, .line, .ev] s (takeArrival s) ∧ OnlyRaised s (takeArrival s) := by
  obtain ⟨askew, counted⟩ := arrived_found (s := s) set page found
  have before := arrived_same e s
  have acc : (openBin e.set (arrived e s)).acc = { s.acc with
      state := .collecting
      held := some n
      sheets := s.acc.sheets + 1
      jogInterval := (openBin e.set (arrived e s)).acc.jogInterval } := by
    unfold openBin
    rw [set, before .acc (by decide)]
    rfl
  have opened : (openBin e.set (arrived e s)).findSet n =
      some { r with pagesArrived := r.pagesArrived + 1, skewed := askew } := counted
  have collecting : (openBin e.set (arrived e s)).acc.state = .collecting := rfl
  have inBin : (openBin e.set (arrived e s)).acc.held = some n := by rw [acc]
  have complete : checkComplete (openBin e.set (arrived e s)) = openBin e.set (arrived e s) :=
    checkComplete_more (heldRec_of_held inBin opened) (by dsimp only; omega)
  have stack : examStack (openBin e.set (arrived e s)) = openBin e.set (arrived e s) := by
    refine examStack_collecting collecting inBin ?_
    unfold State.setState
    rw [opened, Option.map_some, active]
    nofun
  have rule : takeArrival s = evalAccBlocked (examObligation (openBin e.set (arrived e s))) := by
    rw [takeArrival_matched (matchedEntry_within oldest inWindow), matchArrival_empty e empty, complete, stack]
  have obliged := examObligation_same (openBin e.set (arrived e s))
  have blocked := evalAccBlocked_same (examObligation (openBin e.set (arrived e s)))
  have open_ : SameExcept [.acc] (arrived e s) (openBin e.set (arrived e s)) := setAcc_same _
  refine ⟨askew, ?_, ?_, ?_, ?_, ?_⟩
  · rw [rule, evalAccBlocked_findSet, findSet_of_table (obliged .table (by decide))]
    exact opened
  · rw [rule, evalAccBlocked_acc, examObligation_acc, acc]
  · rw [rule, blocked .track (by decide), obliged .track (by decide), open_ .track (by decide)]
    exact arrived_list e s
  · rw [rule]
    exact ((before.comp open_ (n := [.links, .table, .track, .acc, .line, .ev]) (by decide) (by decide)).comp obliged
      (n := [.links, .table, .track, .acc, .line, .ev]) (by decide) (by decide)).comp blocked (by decide) (by decide)
  · rw [rule]
    exact ((arrived_onlyRaised e s).trans (.of_same open_ (by decide))).trans
      ((examObligation_onlyRaised _).trans (evalAccBlocked_onlyRaised _))

/-- A stray arrival takes its line fault first, and nothing that follows takes it back. -/
theorem strayArrival_faults (h : s.line.state ≠ .faulted) :
    FaultedWith (some .straySheet) s.acc.held (evalAccBlocked (examObligation (examStack (strayArrival s)))).line := by
  have moves : Moves (.of .arrival) false (lineFault .straySheet s.acc.held s) (strayArrival s) := by
    unfold strayArrival
    dsimp only
    split
    · exact (Moves.here _).openBin none
    · exact .here _
    · exact ((Moves.here _).lieForeign none).recordCauseOpt _ _
    · exact ((Moves.here _).lieForeign none).recordCauseOpt _ _
    · exact ((Moves.here _).lieForeign none).recordCauseOpt _ _
  exact ((moves.examStack.examObligation).evalAccBlocked).faultedWith nofun nofun (lineFault_faultedWith _ _ h)

/-- Settles O46: a matched sheet opens the bin and is counted; a stray one faults the line. -/
theorem arrivalIsCollectedOrStray : Obligations.ArrivalIsCollectedOrStray := by
  unfold Obligations.ArrivalIsCollectedOrStray
  intro s open_
  rw [exec_arrival, input_open _ open_]
  refine ⟨fun e n r oldest inWindow empty set page found active good more => ?_, fun running outside => ⟨_, rfl, ?_⟩⟩
  · obtain ⟨askew, counted, acc, list, changed, asked⟩ :=
      arrival_collected (s := s.begin) oldest inWindow empty set page found active more
    have same := event_of_settled asked.settled
    have after := (same .acc (by decide)).trans acc
    have begun : SameExcept [.ev] s s.begin := setEv_same _
    refine ⟨_, _, rfl, by rw [after], by rw [after], by rw [after]; rfl, by rw [after]; rfl, by rw [after]; rfl, ?_,
      (event_findSet_of_settled asked.settled n).trans counted, rfl, active, good,
      (begun.comp changed (n := [.links, .table, .track, .acc, .line, .ev]) (by decide) (by decide)).comp same (by decide)
        (by decide)⟩
    rw [same .track (by decide)]
    exact list
  · have rule := takeArrival_stray (matchedEntry_none (s := s.begin) outside)
    have faulted : FaultedWith (some .straySheet) s.acc.held (event takeArrival s).line := by
      refine event_faultedWith ?_
      rw [rule]
      exact strayArrival_faults (s := s.begin) running
    have moves : Moves .inner false s.begin (takeArrival s.begin) := (Moves.here s.begin).takeArrival
    exact ⟨⟨running, faulted.state, faulted.cause, faulted.set⟩, event_web moves.inner_web,
      event_reader moves.inner_reader⟩

end Sys2Proof.Machine
end

section
/-! PROOFS. Knife and gate firings at the encoder step that reaches their fire points (R91 to R101). -/

namespace Sys2Proof.Machine
variable {s t u v : State}

/-! ### Looking up sheets -/

theorem findSheet_mem {id : Nat} {e : SheetEntry} (found : s.findSheet id = some e) : e ∈ s.track.list ∧ e.id = id :=
  ⟨List.mem_of_find?_eq_some found, by simpa using List.find?_some found⟩

theorem findSheet_of_mem {e : SheetEntry} (once : (s.track.list.map SheetEntry.id).Nodup) (mem : e ∈ s.track.list) :
    s.findSheet e.id = some e := by
  obtain ⟨e', found⟩ : ∃ e', s.findSheet e.id = some e' :=
    Option.isSome_iff_exists.1 (List.find?_isSome.2 ⟨e, mem, by simp⟩)
  obtain ⟨mem', same⟩ := findSheet_mem found
  rw [found, List.inj_on_of_nodup_map once mem' mem same]

theorem findSheet_of_track (h : t.track = s.track) (id : Nat) : t.findSheet id = s.findSheet id := by
  unfold State.findSheet
  rw [h]

theorem findSheet_updateSheet {id : Nat} {e : SheetEntry} (f : SheetEntry → SheetEntry) (keeps : ∀ x, (f x).id = x.id)
    (found : s.findSheet id = some e) : (updateSheet id f s).findSheet id = some (f e) := by
  have number : ∀ x : SheetEntry, (if x.id = id then f x else x).id = x.id := fun x => by
    split
    · exact keeps x
    · rfl
  show (s.track.list.map fun x => if x.id = id then f x else x).find? (fun x => x.id == id) = _
  rw [List.find?_map]
  have lookup : s.track.list.find? ((fun x => x.id == id) ∘ fun x => if x.id = id then f x else x) = some e := by
    rw [← found]
    refine congrArg (fun p => List.find? p s.track.list) (funext fun x => ?_)
    exact congrArg (· == id) (number x)
  rw [lookup]
  exact congrArg some (if_pos (findSheet_mem found).2)

theorem mem_beforeGate {id : Nat} : id ∈ beforeGate s ↔ ∃ e ∈ s.track.list, e.pastGate = false ∧ e.id = id := by
  unfold beforeGate
  simp only [List.mem_map, List.mem_filter, Bool.not_eq_true', and_assoc]

/-! ### A gate plan with nothing to change -/

/-- The sheets with these ids all stand at one disposition. -/
def Agree (ids : List Nat) (d : Disposition) (s : State) : Prop :=
  ∀ id ∈ ids, ∀ e, s.findSheet id = some e → e.disposition = d

theorem walkEntry_agreeing {prev : Option Nat} {id : Nat} {running : Disposition}
    (before : Agree prev.toList running s) (here : Agree [id] running s) :
    walkEntry prev id running s = (s, running) := by
  unfold walkEntry
  split
  · rfl
  · next e found =>
    have agrees : e.disposition = running := here id (by simp) e found
    have alone : (if e.disposition = running then (s, running) else
        ((walkFiring e e.disposition running s).1, (walkFiring e e.disposition running s).2.1)) = (s, running) :=
      if_pos agrees
    dsimp only
    rw [alone]
    cases prev with
    | none => rfl
    | some p =>
      dsimp only [Option.bind_some]
      split
      · rfl
      · next x foundPrev =>
        have agreesPrev : x.disposition = running := before p (by simp) x foundPrev
        rw [if_neg fun parted => parted.2 (by rw [agreesPrev, agrees])]

theorem walk_agreeing {running : Disposition} (ids : List Nat) : ∀ prev : Option Nat, Agree prev.toList running s →
    Agree ids running s → walk prev ids running s = s.setFiring { s.firing with planned := running } := by
  induction ids with
  | nil => exact fun _ _ _ => rfl
  | cons id rest ih =>
    intro prev before all
    have here : Agree [id] running s := fun x mem => all x (by simp_all)
    unfold walk
    rw [walkEntry_agreeing before here]
    exact ih (some id) here fun x mem => all x (List.mem_cons_of_mem _ mem)

/-- The Firing Queue with no GATE entry in it and the plan at a position. -/
def Scheduler.replanned (f : Scheduler) (d : Disposition) : Scheduler :=
  { f with
    queue := f.queue.filter fun g => g.actuator.same (.knife 0)
    planned := d }

/-- A re-derivation that finds every sheet before the gate where the gate stands drops the GATE entries and plans the
gate where it stands (R93). -/
theorem rederive_agreeing (agree : Agree (beforeGate s) s.firing.actual s) :
    rederive s = s.noneMade.setFiring (s.firing.replanned s.firing.actual) :=
  walk_agreeing (s := dropGates s.noneMade) _ none nofun agree

/-- One re-derivation serves all that were asked for, when it changes no sheet. -/
theorem replan_agreeing (asked : s.ev.planWanted = true) (agree : Agree (beforeGate s) s.firing.actual s) :
    replan s = s.planAsked.noneMade.setFiring (s.firing.replanned s.firing.actual) := by
  have once : (s.planAsked.noneMade.setFiring (s.firing.replanned s.firing.actual)).ev.planWanted = false := by
    show (false || s.ev.guardPlan.take == .asked) = false
    cases s.ev.guardPlan <;> rfl
  unfold replan replanLoop
  rw [if_pos asked, rederive_agreeing (s := s.planAsked) agree]
  unfold replanLoop
  exact if_neg (ne_true_of_eq_false once)

/-! ### The queue as its head falls due -/

theorem signedDist_self (p : Pos) : signedDist p p = 0 := by simp [signedDist]

theorem reached_self (p : Pos) : reached p p = true := by simp [reached, signedDist_self]

theorem Actuator.same_self (a : Actuator) : a.same a = true := by cases a <;> rfl

theorem standing_head {f : Firing} {rest : List Firing} (queue : s.firing.queue = f :: rest) :
    standing s f.actuator f.target = some f := by
  unfold standing
  rw [queue, List.find?_cons_of_pos (by simp [Actuator.same_self])]

theorem filter_ne_head {f : Firing} {rest : List Firing} (out : f ∉ rest) :
    (f :: rest).filter (fun g => decide (g ≠ f)) = rest := by
  rw [List.filter_cons_of_neg (by simp), List.filter_eq_self]
  intro g mem
  simp only [ne_eq, decide_not, Bool.not_eq_eq_eq_not, Bool.not_true, decide_eq_false_iff_not]
  exact fun e => out (e ▸ mem)

/-- The state in which a firing that left the queue is taken (R96). -/
def unqueued (rest : List Firing) (s : State) : State := s.setQueue rest

theorem fallDue_head {f : Firing} {rest : List Firing} (queue : s.firing.queue = f :: rest) (out : f ∉ rest)
    (lateness : Int) :
    fallDue f lateness s =
      if (takeDue f lateness s.firing.actual (unqueued rest s)).2 then
        askWithheld f.actuator (takeDue f lateness s.firing.actual (unqueued rest s)).1
      else (takeDue f lateness s.firing.actual (unqueued rest s)).1 := by
  have left : s.setQueue (s.firing.queue.filter fun g => g ≠ f) = unqueued rest s := by
    rw [queue, filter_ne_head out]
    rfl
  unfold fallDue
  rw [left]

theorem fallDue_fires {f : Firing} {rest : List Firing} (queue : s.firing.queue = f :: rest) (out : f ∉ rest)
    {lateness : Int} (closed : s.line.guard = .closed) (inTime : lateness ≤ lateTol s f.actuator) :
    fallDue f lateness s = fire f.actuator (countLate lateness (unqueued rest s)) := by
  have may : mustWithhold (unqueued rest s) f.actuator lateness = false := by
    have tol : lateTol (unqueued rest s) f.actuator = lateTol s f.actuator := by cases f.actuator <;> rfl
    have guard : (unqueued rest s).line.guard = .closed := closed
    simp only [mustWithhold, guard, tol, reduceCtorEq, decide_false, Bool.false_or, decide_eq_false_iff_not]
    omega
  have taken : takeDue f lateness s.firing.actual (unqueued rest s) =
      (fire f.actuator (countLate lateness (unqueued rest s)), false) := by
    unfold takeDue
    rw [may, if_neg (by simp)]
  rw [fallDue_head queue out, taken, if_neg (by simp)]

theorem fallDue_withheld {f : Firing} {rest : List Firing} (queue : s.firing.queue = f :: rest) (out : f ∉ rest)
    {lateness : Int} (must : s.line.guard = .opened ∨ (lateTol s f.actuator : Int) < lateness) :
    fallDue f lateness s =
      askWithheld f.actuator (withhold f.actuator s.firing.actual (unqueued rest s)) := by
  have must' : mustWithhold (unqueued rest s) f.actuator lateness = true := by
    have tol : lateTol (unqueued rest s) f.actuator = lateTol s f.actuator := by cases f.actuator <;> rfl
    have guard : (unqueued rest s).line.guard = s.line.guard := rfl
    simp only [mustWithhold, guard, tol, Bool.or_eq_true, decide_eq_true_eq]
    omega
  have taken : takeDue f lateness s.firing.actual (unqueued rest s) =
      (withhold f.actuator s.firing.actual (unqueued rest s), true) := by
    unfold takeDue
    rw [must', if_pos rfl]
  rw [fallDue_head queue out, taken, if_pos rfl]

/-! ### The step at which the head's fire point is reached -/

theorem takeWatch_head {f : Firing} {rest : List Firing} (queue : s.firing.queue = f :: rest)
    (due : f.firePoint = s.web.position) :
    takeWatch s (.firePoint f.actuator f.target) = event (fallDue f 0) s := by
  unfold takeWatch
  dsimp only
  rw [standing_head queue]
  exact if_pos (by rw [due]; exact reached_self _)

theorem stepWeb_fires {f : Firing} {rest : List Firing} (noSweep : s.line.sweep = false)
    (queue : s.firing.queue = f :: rest) (due : f.firePoint = s.web.position + 1)
    (alone : dueWatches (movePosition .forward s) = [.firePoint f.actuator f.target]) :
    exec (.encoderStep .forward) s = .next (event (fallDue f 0) (movePosition .forward s)) := by
  rw [exec_encoderStep, stepWeb_open _ noSweep, alone]
  exact congrArg Host.Outcome.next (takeWatch_head (s := movePosition .forward s) queue due)

theorem not_mem_of_ahead {f : Firing} {rest : List Firing} {p : Pos} (due : f.firePoint = p)
    (later : ∀ g ∈ rest, ahead p g.firePoint = true) : f ∉ rest := fun mem => by
  have ahead' := later f mem
  rw [due, ahead, signedDist_self] at ahead'
  simp at ahead'

/-- A sheet of no set is rewritten where the gate stands, whether or not it was there already. -/
theorem rewriteSheet_unassigned {id : Nat} {e : SheetEntry} (d : Disposition) (found : s.findSheet id = some e)
    (unassigned : e.set = none) :
    rewriteSheet id d s = if e.disposition = d then s else sendSheet id d s := by
  unfold rewriteSheet
  rw [found]
  dsimp only
  split
  · rfl
  · cases d with
    | waste => rw [unassigned]; rfl
    | accumulate => rfl

theorem agree_of_before {d : Disposition} (once : (s.track.list.map SheetEntry.id).Nodup)
    (all : ∀ x ∈ s.track.list, x.pastGate = false → x.disposition = d) : Agree (beforeGate s) d s := by
  intro id mem e found
  obtain ⟨x, memx, open', same⟩ := mem_beforeGate.1 mem
  have lookup := findSheet_of_mem once memx
  rw [same, found] at lookup
  rw [Option.some.inj lookup]
  exact all x memx open'

/-- What the rewriting of a sheet to where the gate stands leaves, when the other sheets before the gate stand there
already. -/
structure SentToGate (id : Nat) (e : SheetEntry) (d : Disposition) (s t : State) : Prop where
  found : t.findSheet id = some { e with disposition := d }
  ids : t.track.list.map SheetEntry.id = s.track.list.map SheetEntry.id
  all : ∀ x ∈ t.track.list, x.pastGate = false → x.disposition = d

theorem SentToGate.agree {id : Nat} {e : SheetEntry} {d : Disposition} (h : SentToGate id e d s t)
    (once : (s.track.list.map SheetEntry.id).Nodup) : Agree (beforeGate t) d t :=
  agree_of_before (by rw [h.ids]; exact once) h.all

theorem sendSheet_list (id : Nat) (d : Disposition) (s : State) :
    (sendSheet id d s).track.list =
      s.track.list.map fun x => if x.id = id then { x with disposition := d } else x := rfl

theorem sendSheet_sent {id : Nat} {e : SheetEntry} {d : Disposition} (found : s.findSheet id = some e)
    (others : ∀ x ∈ s.track.list, x.pastGate = false → x.id ≠ id → x.disposition = d) :
    SentToGate id e d s (sendSheet id d s) where
  found := findSheet_updateSheet _ (fun _ => rfl) found
  ids := by
    rw [sendSheet_list, List.map_map]
    refine List.map_congr_left fun x _ => ?_
    dsimp only [Function.comp_apply]
    split <;> rfl
  all := by
    intro x' mem open'
    rw [sendSheet_list, List.mem_map] at mem
    obtain ⟨x, mem, rfl⟩ := mem
    by_cases here : x.id = id
    · rw [if_pos here]
    · rw [if_neg here] at open' ⊢
      exact others x mem open' here

theorem rewriteSheet_sent {id : Nat} {e : SheetEntry} {d : Disposition} (once : (s.track.list.map SheetEntry.id).Nodup)
    (found : s.findSheet id = some e) (unassigned : e.set = none)
    (others : ∀ x ∈ s.track.list, x.pastGate = false → x.id ≠ id → x.disposition = d) :
    SentToGate id e d s (rewriteSheet id d s) ∧ SameExcept [.track, .ev] s (rewriteSheet id d s) ∧
      (rewriteSheet id d s).ev = { s.ev with dumpExam := (rewriteSheet id d s).ev.dumpExam } := by
  rw [rewriteSheet_unassigned d found unassigned]
  by_cases there : e.disposition = d
  · rw [if_pos there]
    refine ⟨⟨?_, rfl, fun x mem open' => ?_⟩, .refl s, rfl⟩
    · rw [found, ← there]
    · by_cases same : x.id = id
      · have lookup := findSheet_of_mem once mem
        rw [same, found] at lookup
        rw [← Option.some.inj lookup]
        exact there
      · exact others x mem open' same
  · rw [if_neg there]
    exact ⟨sendSheet_sent found others, (setList_same _ s).comp (setEv_same _) (by decide) (by decide), rfl⟩

/-- The end of an event that asked for a re-derivation and, it may be, the dump's examination, all sheets before the gate
standing where the gate stands. -/
theorem event_replans {rule : State → State} (asked : (rule s.begin).ev.planWanted = true)
    (ended : (rule s.begin).ev.ended = []) (await : (rule s.begin).ev.awaitExam = false)
    (agree : Agree (beforeGate (rule s.begin)) (rule s.begin).firing.actual (rule s.begin)) :
    SameExcept [.links, .firing, .acc, .line, .ev] (rule s.begin) (event rule s) ∧
      (event rule s).firing = (rule s.begin).firing.replanned (rule s.begin).firing.actual ∧
      (event rule s).line = { (rule s.begin).line with holds := (event rule s).line.holds } ∧
      (∀ n, (event rule s).findSet n = (rule s.begin).findSet n) := by
  have planned := replan_agreeing asked agree
  have settled : settle (rule s.begin) = examDumpIf (replan (rule s.begin)) := by
    have same : settle (rule s.begin) = settle (replan (rule s.begin)) := by
      have idle : (replan (rule s.begin)).ev.planWanted = false := by
        rw [planned]
        show (false || (rule s.begin).ev.guardPlan.take == .asked) = false
        cases (rule s.begin).ev.guardPlan <;> rfl
      unfold settle
      rw [replan_idle idle]
    rw [same]
    refine settle_dump ?_ ?_ ?_
    · rw [planned]
      exact ended
    · rw [planned]
      show (false || (rule s.begin).ev.guardPlan.take == .asked) = false
      cases (rule s.begin).ev.guardPlan <;> rfl
    · rw [planned]
      exact await
  have same := event_same rule s
  rw [settled] at same
  have examined := (examDumpIf_same (replan (rule s.begin))).comp same (n := [.links, .acc, .line, .ev])
  have replanned : SameExcept [.firing, .ev] (rule s.begin) (replan (rule s.begin)) := by
    rw [planned]
    exact ((setEv_same _).comp (setEv_same _) (n := [.ev])).comp (setFiring_same _)
  refine ⟨replanned.comp examined, ?_, ?_, fun n => ?_⟩
  · rw [examined .firing (by decide), planned]
    rfl
  · have line : (event rule s).line = (examDumpIf (replan (rule s.begin))).line := same .line (by decide)
    have dumped : (examDumpIf (replan (rule s.begin))).line =
        { (replan (rule s.begin)).line with holds := (examDumpIf (replan (rule s.begin))).line.holds } := by
      unfold examDumpIf
      split
      · exact examDump_line _
      · rfl
    rw [line, dumped, replanned .line (by decide)]
  · rw [event_findSet, settled, examDumpIf_findSet]
    exact findSet_of_table (replanned .table (by decide)) n

theorem askWithheld_gate {id : Nat} {d : Disposition} (fresh : s.ev.guardPlan = .notAsked) :
    (askWithheld (.gate id d) s).ev.planWanted = true ∧ SameExcept [.ev] s (askWithheld (.gate id d) s) ∧
      (askWithheld (.gate id d) s).ev.ended = s.ev.ended ∧
      (askWithheld (.gate id d) s).ev.awaitExam = s.ev.awaitExam := by
  unfold askWithheld
  split
  · next h => cases h
  · refine ⟨?_, setEv_same _, rfl, rfl⟩
    show (s.ev.replan || s.ev.guardPlan.ask == .asked) = true
    rw [fresh]
    exact Bool.or_true _
  · exact ⟨rfl, setEv_same _, rfl, rfl⟩

theorem Agree.of_same {d : Disposition} {l : List Part} (h : SameExcept l s t) (no : Part.track ∉ l)
    (k : Agree (beforeGate s) d s) : Agree (beforeGate t) d t := by
  have track : t.track = s.track := h .track no
  intro id mem e found
  unfold beforeGate at mem
  rw [track] at mem
  exact k id mem e (by rw [← found, findSheet_of_track track])

/-- Settles O38: the head is the one watched position due, so the step is the one event in which it fires or is
withheld. -/
theorem firingsFireAtTheirFirePoints : Obligations.FiringsFireAtTheirFirePoints := by
  unfold Obligations.FiringsFireAtTheirFirePoints
  intro f rest s noSweep queue due later alone
  have out : f ∉ rest := not_mem_of_ahead due later
  have run := stepWeb_fires noSweep queue due alone
  refine ⟨fun closed => ?_, fun opened => ?_⟩
  · have fires : fallDue f 0 (movePosition .forward s).begin =
        fire f.actuator (unqueued rest (movePosition .forward s).begin) :=
      fallDue_fires (s := (movePosition .forward s).begin) queue out closed (by simp)
    refine ⟨fun row knife => ?_, fun id d gate => ?_⟩
    · rw [knife] at fires
      rw [run, event_idle _ (by rw [fires]; rfl), fires]
      rfl
    · rw [gate] at fires
      rw [run, event_idle _ (by rw [fires]; rfl), fires]
      rfl
  · have withheld : fallDue f 0 (movePosition .forward s).begin = askWithheld f.actuator
        (withhold f.actuator s.firing.actual (unqueued rest (movePosition .forward s).begin)) :=
      fallDue_withheld (s := (movePosition .forward s).begin) queue out (.inl opened)
    refine ⟨fun row knife line => ?_, fun id d e gate once found open' _ unassigned others => ?_⟩
    · rw [knife] at withheld
      obtain ⟨faults, same⟩ := event_faults (s := movePosition .forward s) line withheld (.of_ev rfl) rfl
      refine ⟨_, run, ⟨line, faults.state, faults.cause, faults.set⟩, ?_, ?_⟩
      · rw [same .firing (by decide)]
        rfl
      · refine SameExcept.comp (m := [.links, .line, .ev]) ?_ same (l := [.web, .firing, .ev])
        exact ((setWeb_same _).comp (setEv_same _) (n := [.web, .ev])).comp (setFiring_same _)
    · rw [gate] at withheld
      obtain ⟨sent, kept, ev⟩ := rewriteSheet_sent (s := unqueued rest (movePosition .forward s).begin)
        (d := s.firing.actual) once found unassigned others
      have asks := askWithheld_gate (id := id) (d := d)
        (s := rewriteSheet id s.firing.actual (unqueued rest (movePosition .forward s).begin)) (by rw [ev]; rfl)
      obtain ⟨asked, same, ended, await⟩ := asks
      rw [ev] at ended await
      change fallDue f 0 (movePosition .forward s).begin = askWithheld (.gate id d)
        (rewriteSheet id s.firing.actual (unqueued rest (movePosition .forward s).begin)) at withheld
      rw [← withheld] at asked same ended await
      have whole := kept.comp same (n := [.track, .ev])
      have firing : (fallDue f 0 (movePosition .forward s).begin).firing = { s.firing with queue := rest } :=
        whole .firing (by decide)
      obtain ⟨afterwards, planned, line, -⟩ := event_replans (s := movePosition .forward s) asked ended await
        (by rw [firing]; exact (sent.agree once).of_same same (by decide))
      refine ⟨_, run, ?_, ?_, ?_⟩
      · rw [findSheet_of_track (afterwards .track (by decide)), findSheet_of_track (same .track (by decide))]
        exact sent.found
      · rw [line, whole .line (by decide)]
        rfl
      · rw [planned, firing]
        rfl

end Sys2Proof.Machine
end

section
/-! PROOFS. A queued firing that a speed update finds late (R97 to R101). -/

namespace Sys2Proof.Machine
variable {s t u v w : State}

/-! ### A sheet sent to where the gate stands -/

theorem SentToGate.of_list {id : Nat} {e : SheetEntry} {d : Disposition} (h : SentToGate id e d s t)
    (list : u.track.list = t.track.list) : SentToGate id e d s u where
  found := by
    unfold State.findSheet
    rw [list]
    exact h.found
  ids := by
    rw [list]
    exact h.ids
  all := by
    rw [list]
    exact h.all

theorem SentToGate.noneToTurn {id : Nat} {e : SheetEntry} (h : SentToGate id e .waste s t) (n : Nat) :
    NoneToTurn n t := fun x mem => by
  unfold turns
  cases open' : x.pastGate with
  | true => simp
  | false => simp [h.all x mem open']

/-- What the rewriting of sheet id from e to disposition d does: the sheet's set, if it went to waste, takes
MISSED_FIRING. -/
structure RewritesTo (id : Nat) (e : SheetEntry) (d : Disposition) (s t : State) : Prop where
  sent : SentToGate id e d s t
  same : SameExcept [.table, .acc, .track, .ev] s t
  list : t.track.list = s.track.list.map fun x => if x.id = id then { x with disposition := d } else x
  ev : t.ev = { s.ev with dumpExam := t.ev.dumpExam }
  fails : ∀ n r, d = .waste → e.set = some n → s.findSet n = some r → r.state.mayFail = true → r.cause = none →
    t.findSet n = some { r with state := .rejecting, cause := some .missedFiring, failingStep := none }

theorem rewriteSheet_rewritesTo {id : Nat} {e : SheetEntry} {d : Disposition} (found : s.findSheet id = some e)
    (moves : e.disposition ≠ d) (others : ∀ x ∈ s.track.list, x.pastGate = false → x.id ≠ id → x.disposition = d) :
    RewritesTo id e d s (rewriteSheet id d s) := by
  have sent := sendSheet_sent found others
  have same : SameExcept [.track, .ev] s (sendSheet id d s) := (setList_same _ s).comp (setEv_same _)
  unfold rewriteSheet
  rw [found]
  dsimp only
  rw [if_neg moves]
  cases d with
  | accumulate => exact ⟨sent, same.mono, rfl, rfl, fun _ _ h => by cases h⟩
  | waste =>
    dsimp only
    cases set : e.set with
    | none => exact ⟨sent, same.mono, rfl, rfl, fun _ _ _ h => by cases set.symm.trans h⟩
    | some n =>
      have holding : holdsSet (sendSheet id .waste s) n = true :=
        holdsSet_of_sheet (findSheet_mem sent.found).1 set
      have takes := recordCause_holding_takesCause .missedFiring none (sent.noneToTurn n) holding
      have fails : ∀ r, s.findSet n = some r → r.state.mayFail = true → r.cause = none →
          (recordCause n .missedFiring none (sendSheet id .waste s)).findSet n =
            some { r with state := .rejecting, cause := some .missedFiring, failingStep := none } :=
        fun r foundSet may good =>
          (recordCause_holding_rejects (s := sendSheet id .waste s) .missedFiring none foundSet (by simp [SetRec.open, may, good])
            (sent.noneToTurn n) holding).found
      show RewritesTo id e .waste s (recordCause n .missedFiring none (sendSheet id .waste s))
      generalize recordCause n .missedFiring none (sendSheet id .waste s) = w at takes fails
      have sentEv : (sendSheet id .waste s).ev = { s.ev with dumpExam := true } := rfl
      refine ⟨sent.of_list takes.list, same.comp takes.same, takes.list, ?_, fun m r _ h => ?_⟩
      · rw [takes.ev, sentEv]
      · cases set.symm.trans h
        exact fails r

/-! ### The Firing Scheduler's part, with one late firing queued -/

theorem signedDist_neg_of_pos {a b : Pos} (h : 0 < signedDist a b) : signedDist b a < 0 := by
  unfold signedDist at *
  have swap : a - b = -(b - a) := by bv_omega
  rw [swap, BitVec.toInt_neg]
  have := BitVec.toInt_lt (x := b - a)
  have := BitVec.le_toInt (x := b - a)
  simp only [Int.bmod]
  omega

theorem ahead_of_late {p b : Pos} (h : 0 < signedDist b p) : reached p b = true := by
  have back := signedDist_neg_of_pos h
  simp only [reached, decide_eq_true_eq]
  omega

/-- A firing with its fire point recomputed. -/
def Firing.retimed (f : Firing) (s : State) : Firing := { f with firePoint := firePointOf s f.actuator f.target }

theorem retime_one {f : Firing} (queue : s.firing.queue = [f]) : (retime s).firing.queue = [f.retimed s] := by
  show orderQueue _ (s.firing.queue.map _) = _
  rw [queue]
  rfl

theorem updateFirings_one {f : Firing} (queue : s.firing.queue = [f])
    (late : 0 < signedDist (firePointOf s f.actuator f.target) s.web.position) :
    updateFirings s =
      fallDue (f.retimed s) (signedDist (firePointOf s f.actuator f.target) s.web.position) (retime s) := by
  have one := retime_one queue
  have due : (retime s).firing.queue.filter (fun f => reached s.web.position f.firePoint) = [f.retimed s] := by
    rw [one]
    exact List.filter_cons_of_pos (ahead_of_late late)
  unfold updateFirings
  rw [due]
  rfl

theorem lineFault_tally (k : LineCause) (n : Option Nat) (s : State) :
    (lineFault k n s).line.tally = s.line.tally := by
  by_cases faulted : s.line.state = .faulted
  · rw [lineFault_further k n faulted]
    rfl
  · rw [lineFault_enters k n faulted]

theorem countLate_late {lateness : Int} (late : 0 < lateness) (s : State) : countLate lateness s = s.withTally Tally.late :=
  if_pos late

/-- The scheduler with its queue empty. -/
def Scheduler.emptied (f : Scheduler) : Scheduler := { f with queue := [] }

/-- What the Firing Scheduler's part of a speed update does with the one queued firing, found late by so many counts: s
is the state in which the block takes the update, t the state after it. -/
structure TakesLate (f : Firing) (lateness : Int) (s t : State) : Prop where
  knifeFires : ∀ row, f.actuator = .knife row → s.line.guard = .closed → lateness ≤ s.line.geometry.knifeLateTol →
    t.firing = { s.firing.emptied with knifePulses := s.firing.knifePulses + 1 } ∧ t.line.tally = s.line.tally.late
  knifeWithheld : ∀ row, f.actuator = .knife row →
    s.line.guard = .opened ∨ (s.line.geometry.knifeLateTol : Int) < lateness →
    t.firing = s.firing.emptied ∧ t.line.tally = s.line.tally ∧
      (s.line.state ≠ .faulted → FaultedWith (some .missedBurst) (rowSet s row) t.line)
  gateFires : ∀ id d, f.actuator = .gate id d → s.line.guard = .closed → lateness ≤ s.line.geometry.gateLateTol →
    t.firing = { s.firing.emptied with actual := d } ∧ t.line.tally = s.line.tally.late
  gateWithheld : ∀ id d e, f.actuator = .gate id d →
    s.line.guard = .opened ∨ (s.line.geometry.gateLateTol : Int) < lateness →
    (s.track.list.map SheetEntry.id).Nodup → s.findSheet id = some e → e.disposition ≠ s.firing.actual →
    (∀ x ∈ s.track.list, x.pastGate = false → x.id ≠ id → x.disposition = s.firing.actual) →
    t.firing = { s.firing.emptied with planned := s.firing.actual } ∧
      t.findSheet id = some { e with disposition := s.firing.actual } ∧ t.line.record = s.line.record ∧
      ∀ n r, s.firing.actual = .waste → e.set = some n → s.findSet n = some r → r.state.mayFail = true →
        r.cause = none →
        t.findSet n = some { r with state := .rejecting, cause := some .missedFiring, failingStep := none }

theorem takesLate {f : Firing} (queue : s.firing.queue = [f])
    (late : 0 < signedDist (firePointOf s f.actuator f.target) s.web.position) :
    TakesLate f (signedDist (firePointOf s f.actuator f.target) s.web.position) s (event updateFirings s) := by
  have one : (retime s.begin).firing.queue = [f.retimed s] := retime_one (s := s.begin) queue
  have taken : updateFirings s.begin = fallDue (f.retimed s)
      (signedDist (firePointOf s f.actuator f.target) s.web.position) (retime s.begin) :=
    updateFirings_one (s := s.begin) queue late
  generalize signedDist (firePointOf s f.actuator f.target) s.web.position = lateness at *
  have fires : s.line.guard = .closed → lateness ≤ lateTol s f.actuator → updateFirings s.begin =
      fire f.actuator ((unqueued [] (retime s.begin)).withTally Tally.late) := fun closed inTime => by
    have tol : lateTol (retime s.begin) f.actuator = lateTol s f.actuator := by cases f.actuator <;> rfl
    rw [taken, fallDue_fires one (by simp) closed (by rw [← tol] at inTime; exact inTime), countLate_late late]
    rfl
  have withheld : s.line.guard = .opened ∨ (lateTol s f.actuator : Int) < lateness → updateFirings s.begin =
      askWithheld f.actuator (withhold f.actuator s.firing.actual (unqueued [] (retime s.begin))) := fun must => by
    have tol : lateTol (retime s.begin) f.actuator = lateTol s f.actuator := by cases f.actuator <;> rfl
    rw [taken]
    exact fallDue_withheld one (by simp) (by rw [← tol] at must; exact must)
  refine ⟨fun row knife closed inTime => ?_, fun row knife must => ?_, fun id d gate closed inTime => ?_,
    fun id d e gate must once found moves others => ?_⟩
  · rw [knife] at fires
    have fired := fires closed inTime
    rw [event_idle _ (by rw [fired]; rfl), fired]
    exact ⟨rfl, rfl⟩
  · rw [knife] at withheld
    have held : updateFirings s.begin = lineFault .missedBurst (rowSet s row) (unqueued [] (retime s.begin)) :=
      withheld must
    have asked : OnlyRaised s.begin (unqueued [] (retime s.begin)) := .of_ev rfl
    have same : SameExcept [.links, .ev] (updateFirings s.begin) (event updateFirings s) := by
      refine event_of_settled ?_
      rw [held]
      exact (asked.trans (lineFault_onlyRaised _ _ _)).settled
    refine ⟨?_, ?_, fun line => event_faultedWith ?_⟩
    · rw [same .firing (by decide), held, lineFault_same _ _ _ .firing (by decide)]
      rfl
    · rw [same .line (by decide), held, lineFault_tally]
      rfl
    · rw [held]
      exact lineFault_faultedWith _ _ line
  · rw [gate] at fires
    have fired := fires closed inTime
    rw [event_idle _ (by rw [fired]; rfl), fired]
    exact ⟨rfl, rfl⟩
  · rw [gate] at withheld
    have rewrites := rewriteSheet_rewritesTo (s := unqueued [] (retime s.begin)) (d := s.firing.actual) found moves others
    have held : updateFirings s.begin =
        askWithheld (.gate id d) (rewriteSheet id s.firing.actual (unqueued [] (retime s.begin))) := withheld must
    generalize rewriteSheet id s.firing.actual (unqueued [] (retime s.begin)) = v at rewrites held
    have ev : v.ev = { Event.none with dumpExam := v.ev.dumpExam } := rewrites.ev
    obtain ⟨asked, same, ended, await⟩ := askWithheld_gate (id := id) (d := d) (s := v) (by rw [ev]; rfl)
    rw [ev] at ended await
    rw [← held] at asked same ended await
    have whole := rewrites.same.comp same (n := [.table, .acc, .track, .ev])
    have firing : (updateFirings s.begin).firing = s.firing.emptied := whole .firing (by decide)
    obtain ⟨afterwards, planned, line, sets⟩ := event_replans (rule := updateFirings) asked ended await
      (by rw [firing]; exact (rewrites.sent.agree once).of_same same (by decide))
    refine ⟨?_, ?_, ?_, fun n r waste set foundSet may good => ?_⟩
    · rw [planned, firing]
      rfl
    · rw [findSheet_of_track (afterwards .track (by decide)), findSheet_of_track (same .track (by decide))]
      exact rewrites.sent.found
    · rw [line, whole .line (by decide)]
      rfl
    · rw [sets, findSet_of_table (same .table (by decide))]
      exact rewrites.fails n r waste set foundSet may good

/-! ### The other blocks at the update -/

/-- From s to t a block took a speed update that is not the Firing Scheduler. -/
structure Bystands (s t : State) : Prop where
  same : SameExcept [.links, .acc, .belt, .line, .ev, .choices] s t
  line : t.line = { s.line with holds := t.line.holds }

theorem Bystands.refl (s : State) : Bystands s s := ⟨.refl s, rfl⟩

theorem Bystands.trans (h : Bystands s t) (k : Bystands t u) : Bystands s u :=
  ⟨h.same.comp k.same, by rw [k.line, h.line]⟩

theorem evalHunting_onlyRaised (s : State) : OnlyRaised s (evalHunting s) := by
  unfold evalHunting
  split
  · split
    · exact setHold_onlyRaised _ _ _
    · exact .refl s
  · exact setHold_onlyRaised _ _ _

theorem evalHunting_line (s : State) : (evalHunting s).line = { s.line with holds := (evalHunting s).line.holds } := by
  unfold evalHunting
  split
  · split
    · rw [setHold_line]
    · rfl
  · rw [setHold_line]

theorem takePart_bystands {x : SpeedPart} (other : x ≠ .firings) (s : State) : Bystands s (takePart s x) := by
  cases x with
  | firings => exact absurd rfl other
  | stack =>
    have asked : OnlyRaised s.begin (updateStack s.begin) :=
      (examObligation_onlyRaised _).trans (evalAccBlocked_onlyRaised _)
    have same := event_of_settled (rule := updateStack) asked.settled
    have own := (setEv_same Event.none).comp (updateStack_same s.begin) (s := s) (n := [.acc, .links, .line, .ev])
    refine ⟨own.comp same, ?_⟩
    have line : (updateStack s.begin).line = { s.line with holds := (updateStack s.begin).line.holds } := by
      unfold updateStack
      rw [evalAccBlocked_line, examObligation_same s.begin .line (by decide)]
      rfl
    show (event updateStack s).line = { s.line with holds := (event updateStack s).line.holds }
    rw [same .line (by decide), line]
  | hunting =>
    have asked : OnlyRaised s.begin (evalHunting s.begin) := evalHunting_onlyRaised _
    have same := event_of_settled (rule := evalHunting) asked.settled
    have own := (setEv_same Event.none).comp (evalHunting_same s.begin) (s := s) (n := [.links, .line, .ev])
    refine ⟨own.comp same, ?_⟩
    show (event evalHunting s).line = { s.line with holds := (event evalHunting s).line.holds }
    rw [same .line (by decide), evalHunting_line]
    rfl
  | belt =>
    have asked : OnlyRaised s.begin (updateTravel s.begin) := .of_same (updateTravel_same _) (by decide)
    have same := event_of_settled (rule := updateTravel) asked.settled
    have own := (setEv_same Event.none).comp (updateTravel_same s.begin) (s := s) (n := [.belt, .ev])
    have whole := own.comp same (n := [.links, .belt, .ev])
    exact ⟨whole.mono, by rw [show (takePart s .belt).line = s.line from whole .line (by decide)]⟩

theorem foldl_takePart_bystands (xs : List SpeedPart) : ∀ s, SpeedPart.firings ∉ xs → Bystands s (xs.foldl takePart s) := by
  induction xs with
  | nil => exact fun s _ => .refl s
  | cons x xs ih =>
    intro s out
    exact (takePart_bystands (fun e => out (by simp [e])) s).trans (ih _ fun mem => out (List.mem_cons_of_mem _ mem))

theorem speedParts_nodup (s : State) : (speedParts s).Nodup := by
  unfold speedParts
  split_ifs <;> decide

theorem firings_mem_speedParts (queued : s.firing.queue ≠ []) : SpeedPart.firings ∈ speedParts s := by
  have some : s.firing.queue.isEmpty = false := by simpa using queued
  unfold speedParts
  rw [some]
  simp

/-- The Firing Scheduler takes the update once, the other blocks before and after it. -/
theorem updateSpeeds_split (noSweep : s.line.sweep = false) (queued : s.firing.queue ≠ []) :
    ∃ v, Bystands (quiet sampleSpeed s) v ∧ Bystands (event updateFirings v) (updateSpeeds s) := by
  have queue : (quiet sampleSpeed s).firing.queue ≠ [] := by
    rw [quiet_sampleSpeed_same s .firing (by decide)]
    exact queued
  rw [updateSpeeds_open noSweep]
  generalize quiet sampleSpeed s = s' at *
  obtain ⟨ys, perm, order⟩ := inFreeOrder_eq_foldl takePart (speedParts s') s'
  have once : ys.Nodup := perm.nodup_iff.2 (speedParts_nodup s')
  obtain ⟨before, later, rfl⟩ := List.append_of_mem (perm.mem_iff.2 (firings_mem_speedParts queue))
  have apart : SpeedPart.firings ∉ before ∧ SpeedPart.firings ∉ later := by
    rw [List.nodup_append, List.nodup_cons] at once
    exact ⟨fun mem => once.2.2 _ mem _ (by simp) rfl, once.2.1.1⟩
  have drawn : Bystands s' s'.drawn := ⟨fun x h => by cases x <;> simp_all [Part.same, State.drawn], rfl⟩
  rcases order with order | order
  · rw [order, List.foldl_append]
    exact ⟨_, foldl_takePart_bystands before s' apart.1, foldl_takePart_bystands later _ apart.2⟩
  · rw [order, List.foldl_append]
    exact ⟨_, drawn.trans (foldl_takePart_bystands before _ apart.1), foldl_takePart_bystands later _ apart.2⟩

/-- Settles O39: the Firing Scheduler's part is an event of its own, and the other blocks leave alone what it reads and
writes. -/
theorem lateFiringsFireOrAreWithheld : Obligations.LateFiringsFireOrAreWithheld := by
  unfold Obligations.LateFiringsFireOrAreWithheld
  intro f lateness s noSweep queue isLate late
  obtain ⟨v, earlier, afterwards⟩ := updateSpeeds_split noSweep (by rw [queue]; simp)
  have sampled := quiet_sampleSpeed_same s
  have web : v.web = updateSpeed s.web := by
    rw [earlier.same .web (by decide)]
    exact (quiet_same sampleSpeed s .web (by decide)).trans (sampleSpeed_web s.begin)
  have firing : v.firing = s.firing := (earlier.same .firing (by decide)).trans (sampled .firing (by decide))
  have track : v.track = s.track := (earlier.same .track (by decide)).trans (sampled .track (by decide))
  have table : v.table = s.table := (earlier.same .table (by decide)).trans (sampled .table (by decide))
  have line : v.line = { s.line with holds := v.line.holds } := by
    rw [earlier.line, sampled .line (by decide)]
  have row : ∀ p, rowSet v p = rowSet s p := fun p => by
    unfold rowSet
    rw [track]
  have dist : signedDist (firePointOf v f.actuator f.target) v.web.position = lateness := by
    rw [isLate, web, firePointOf_congr (s := { s with web := updateSpeed s.web }) web (by rw [line])]
    rfl
  have takes := takesLate (s := v) (by rw [firing]; exact queue) (by rw [dist]; exact late)
  rw [dist] at takes
  have faulted : ∀ k n, FaultedWith k n (event updateFirings v).line → FaultedWith k n (updateSpeeds s).line :=
    fun k n h => by
      rw [afterwards.line]
      exact ⟨h.state, h.cause, h.set⟩
  refine ⟨_, exec_speedUpdate s, fun p knife => ⟨fun closed inTime => ?_, fun must => ?_⟩,
    fun id d gate => ⟨fun closed inTime => ?_, fun e must once found _ there moves others => ?_⟩⟩
  · have fired := takes.knifeFires p knife (by rw [line]; exact closed) (by rw [line]; exact inTime)
    rw [afterwards.same .firing (by decide), afterwards.line, fired.1, fired.2, firing, line]
    exact ⟨rfl, rfl⟩
  · have withheld := takes.knifeWithheld p knife (by rw [line]; exact must)
    rw [row] at withheld
    obtain ⟨out, tally, faults⟩ := withheld
    rw [afterwards.same .firing (by decide), afterwards.line, out, tally, firing, line]
    refine ⟨rfl, rfl, fun still => ?_⟩
    have now := faulted _ _ (faults (by rw [line]; exact still))
    exact ⟨still, now.state, now.cause, now.set⟩
  · have fired := takes.gateFires id d gate (by rw [line]; exact closed) (by rw [line]; exact inTime)
    rw [afterwards.same .firing (by decide), afterwards.line, fired.1, fired.2, firing, line]
    exact ⟨rfl, rfl⟩
  · have withheld := takes.gateWithheld id d e gate (by rw [line]; exact must) (by rw [track]; exact once)
      (by rw [findSheet_of_track track]; exact found) (by rw [firing, there]; exact moves)
      (by rw [track, firing]; exact others)
    obtain ⟨out, sheet, record, fails⟩ := withheld
    rw [afterwards.same .firing (by decide), afterwards.line, findSheet_of_track (afterwards.same .track (by decide)),
      out, sheet, record, firing, line]
    refine ⟨rfl, rfl, rfl, fun n r accumulate set foundSet may good => ?_⟩
    rw [findSet_of_table (afterwards.same .table (by decide))]
    refine fails n r ?_ set (by rw [findSet_of_table table]; exact foundSet) may good
    rw [firing]
    rw [accumulate] at moves
    cases actual : s.firing.actual with
    | waste => rfl
    | accumulate => exact absurd actual.symm moves

end Sys2Proof.Machine
end

section
/-! PROOFS. What the walks of the gate plan and the end of an event leave as it was: the counts of rows and sheets, the
orphan-run flag, and a reading set reference that names no set. -/

namespace Sys2Proof.Machine
variable {s t u v : State}

/-- From s to t no row and no sheet was counted, the orphan-run flag stayed, and no reading set reference was made. -/
structure RunsOn (s t : State) : Prop where
  rows : t.line.tally.rowsRead = s.line.tally.rowsRead
  sheets : t.line.tally.sheetsTracked = s.line.tally.sheetsTracked
  orphanRun : t.track.orphanRun = s.track.orphanRun
  ref : s.track.ref = .none → t.track.ref = .none

namespace RunsOn

theorem refl (s : State) : RunsOn s s := ⟨rfl, rfl, rfl, id⟩

theorem trans (h : RunsOn s t) (k : RunsOn t u) : RunsOn s u :=
  ⟨k.rows.trans h.rows, k.sheets.trans h.sheets, k.orphanRun.trans h.orphanRun, k.ref ∘ h.ref⟩

theorem of_parts (line : t.line = s.line) (track : t.track = s.track) : RunsOn s t :=
  ⟨by rw [line], by rw [line], by rw [track], fun h => by rw [track, h]⟩

theorem of_tally (tally : t.line.tally = s.line.tally) (track : t.track = s.track) : RunsOn s t :=
  ⟨by rw [tally], by rw [tally], by rw [track], fun h => by rw [track, h]⟩

theorem of_same {l : List Part} (h : SameExcept l s t) (no : Part.line ∉ l ∧ Part.track ∉ l) : RunsOn s t :=
  of_parts (h .line no.1) (h .track no.2)

end RunsOn

theorem lineFault_runsOn (k : LineCause) (n : Option Nat) (s : State) : RunsOn s (lineFault k n s) :=
  .of_tally (lineFault_tally k n s) (lineFault_same k n s .track (by decide))

theorem Tally.ended_counts (x : SetState) (y : Tally) :
    (y.ended x).rowsRead = y.rowsRead ∧ (y.ended x).sheetsTracked = y.sheetsTracked := by
  cases x <;> exact ⟨rfl, rfl⟩

theorem makeTerminal_runsOn (n : Nat) (x : SetState) (s : State) : RunsOn s (makeTerminal n x s) := by
  unfold makeTerminal
  split
  · exact ⟨(s.line.tally.ended_counts x).1, (s.line.tally.ended_counts x).2, rfl, id⟩
  · exact .refl s

theorem testDiverted_runsOn (n : Nat) (s : State) : RunsOn s (testDiverted n s) := by
  unfold testDiverted
  split
  · exact makeTerminal_runsOn _ _ s
  · exact .refl s

theorem turnToWaste_runsOn (n : Nat) (s : State) : RunsOn s (turnToWaste n s) := by
  unfold turnToWaste
  split <;> exact ⟨rfl, rfl, rfl, id⟩

theorem followRef_runsOn (n : Nat) (s : State) : RunsOn s (followRef n s) :=
  ⟨rfl, rfl, rfl, fun none => congrArg (faultRef n) none⟩

theorem recordCause_runsOn (n : Nat) (c : SetCause) (i : Option Nat) (s : State) : RunsOn s (recordCause n c i s) := by
  have stop : RunsOn s (stopHoldOf n (updateSet n (SetRec.fail c i) s)) :=
    (RunsOn.of_same (updateSet_same n _ s) (by decide)).trans (.of_same (stopHoldOf_same n _) (by decide))
  unfold recordCause
  split
  · exact .refl s
  · split
    · have turned := (stop.trans (followRef_runsOn n _)).trans (turnToWaste_runsOn n _)
      exact turned.trans ((RunsOn.of_same (setEv_same _) (by decide)).trans (testDiverted_runsOn n _))
    · exact .refl s

theorem recordCauseOpt_runsOn (n : Option Nat) (c : SetCause) (s : State) : RunsOn s (recordCauseOpt n c s) := by
  cases n with
  | none => exact .refl s
  | some n => exact recordCause_runsOn n c none s

theorem rewriteSheet_runsOn (id : Nat) (d : Disposition) (s : State) : RunsOn s (rewriteSheet id d s) := by
  have sent : ∀ d, RunsOn s (sendSheet id d s) := fun _ => ⟨rfl, rfl, rfl, fun h => h⟩
  unfold rewriteSheet
  split
  · exact .refl s
  · split
    · exact .refl s
    · cases d with
      | waste => exact (sent _).trans (recordCauseOpt_runsOn _ _ _)
      | accumulate => exact sent _

theorem withhold_runsOn (a : Actuator) (d : Disposition) (s : State) : RunsOn s (withhold a d s) := by
  cases a with
  | knife row => exact lineFault_runsOn _ _ s
  | gate sheet _ => exact rewriteSheet_runsOn _ _ s

theorem takeDue_runsOn (f : Firing) (lateness : Int) (d : Disposition) (s : State) :
    RunsOn s (takeDue f lateness d s).1 := by
  have counted : RunsOn s (countLate lateness s) := by
    unfold countLate
    split <;> exact ⟨rfl, rfl, rfl, id⟩
  have fired : ∀ a v, RunsOn v (fire a v) := fun a v => by cases a <;> exact .of_parts rfl rfl
  unfold takeDue
  split
  · exact withhold_runsOn _ _ s
  · exact counted.trans (fired _ _)

theorem askGuarded_runsOn (a : Actuator) (s : State) : RunsOn s (askGuarded a s) := by
  unfold askGuarded
  split <;> exact .of_parts rfl rfl

theorem takeMade_runsOn (f : Firing) (lateness : Int) (d : Disposition) (s : State) :
    RunsOn s (takeMade f lateness d s).1 := by
  have due := takeDue_runsOn f lateness (withheldTo s d) s
  unfold takeMade
  dsimp only
  split
  · exact due.trans (askGuarded_runsOn _ _)
  · exact due

theorem makeFiring_runsOn (a : Actuator) (target : Pos) (running : Disposition) (s : State) :
    RunsOn s (makeFiring a target running s).1 := by
  unfold makeFiring
  split
  · split
    · exact lineFault_runsOn _ _ s
    · exact (lineFault_runsOn _ _ s).trans (rewriteSheet_runsOn _ _ _)
  · dsimp only
    split
    · exact .of_parts rfl rfl
    · exact takeMade_runsOn _ _ _ s

theorem requestKnife_runsOn (row : Pos) (s : State) : RunsOn s (requestKnife row s) := by
  unfold requestKnife
  dsimp only
  split
  · exact .refl s
  · exact makeFiring_runsOn _ _ _ s

theorem walkFiring_runsOn (e : SheetEntry) (want running : Disposition) (s : State) :
    RunsOn s (walkFiring e want running s).1 := by
  have reset : ∀ v, RunsOn v (resetGate (gateTarget s e) .waste v) := fun _ => .of_parts rfl rfl
  unfold walkFiring
  dsimp only
  split
  · split
    · exact .refl s
    · split
      · exact .refl s
      · exact ((rewriteSheet_runsOn _ _ s).trans (rewriteSheet_runsOn _ _ _)).trans (reset _)
  · exact makeFiring_runsOn _ _ _ s

theorem followSheet_runsOn (p e : SheetEntry) (s : State) : RunsOn s (followSheet p e s) := by
  unfold followSheet
  split
  · exact .refl s
  · exact rewriteSheet_runsOn _ _ s

theorem walkWasted_runsOn (p e : SheetEntry) (running : Disposition) (s : State) :
    RunsOn s (walkWasted p e running s).1 := by
  cases running with
  | waste => exact .refl s
  | accumulate =>
    have made := walkFiring_runsOn e .waste .accumulate s
    unfold walkWasted
    dsimp only
    split
    · exact made.trans (followSheet_runsOn p e _)
    · exact made

theorem walkPair_runsOn (p e : SheetEntry) (running : Disposition) (s : State) :
    RunsOn s (walkPair p e running s).1 := by
  unfold walkPair
  dsimp only
  split
  · split
    · exact (rewriteSheet_runsOn _ _ s).trans (.of_parts rfl rfl)
    · exact (rewriteSheet_runsOn _ _ s).trans (walkWasted_runsOn p e running _)
  · exact (rewriteSheet_runsOn _ _ s).trans (walkWasted_runsOn p e running _)

theorem walkEntry_runsOn (prev : Option Nat) (id : Nat) (running : Disposition) (s : State) :
    RunsOn s (walkEntry prev id running s).1 := by
  unfold walkEntry
  split
  · exact .refl s
  · rename_i e _
    have alone : RunsOn s (if e.disposition = running then (s, running)
        else ((walkFiring e e.disposition running s).1, (walkFiring e e.disposition running s).2.1)).1 := by
      split
      · exact .refl s
      · exact walkFiring_runsOn e _ running s
    dsimp only
    split
    · exact alone
    · split
      · exact walkPair_runsOn _ e running s
      · exact alone

theorem walk_runsOn (ids : List Nat) : ∀ (prev : Option Nat) (running : Disposition) (s : State),
    RunsOn s (walk prev ids running s) := by
  induction ids with
  | nil => exact fun _ _ s => .of_parts rfl rfl
  | cons id ids ih => exact fun prev running s => (walkEntry_runsOn prev id running s).trans (ih _ _ _)

theorem rederive_runsOn (s : State) : RunsOn s (rederive s) :=
  (RunsOn.of_parts (s := s) (t := dropGates s.noneMade) rfl rfl).trans (walk_runsOn _ _ _ _)

theorem extendPlan_runsOn (s : State) : RunsOn s (extendPlan s) :=
  (RunsOn.of_parts (s := s) (t := s.noneMade) rfl rfl).trans (walk_runsOn _ _ _ _)

theorem planRow_runsOn (s : State) : RunsOn s (planRow s) := by
  unfold planRow
  split
  · exact .refl s
  · exact extendPlan_runsOn s

theorem replanLoop_runsOn (fuel : Nat) : ∀ s, RunsOn s (replanLoop fuel s) := by
  induction fuel with
  | zero => exact .refl
  | succ fuel ih =>
    intro s
    have asked : RunsOn s s.planAsked := .of_parts rfl rfl
    unfold replanLoop
    split
    · exact (asked.trans (rederive_runsOn _)).trans (ih _)
    · exact .refl s

theorem settle_runsOn (s : State) : RunsOn s (settle s) := by
  have examined : RunsOn (replan s) (examAsked (replan s)) :=
    .of_tally (examAsked_keepsOutcomes _).tally (examAsked_same _ .track (by decide))
  exact ((replanLoop_runsOn _ s).trans examined).trans (.of_same (flushEnded_same _) (by decide))

theorem event_runsOn (rule : State → State) (s : State) : RunsOn (rule s.begin) (event rule s) :=
  (settle_runsOn _).trans (.of_same (event_same rule s) (by decide))

theorem evalTrackFull_runsOn (s : State) : RunsOn s (evalTrackFull s) := by
  have hold : ∀ b, RunsOn s (setHold .trackFull b s) := fun b =>
    .of_tally (by rw [setHold_line]) (setHold_same _ _ s .track (by decide))
  unfold evalTrackFull
  split
  · exact hold true
  · split
    · exact hold false
    · exact .refl s

/-! ### The row's entering: rows counted once, and no condition of the reader's raised -/

/-- From s to t no row and no sheet was counted, and no condition changed that concerns the reader or the inserter. -/
structure RowKept (s t : State) : Prop where
  rows : t.line.tally.rowsRead = s.line.tally.rowsRead
  sheets : t.line.tally.sheetsTracked = s.line.tally.sheetsTracked
  pending : KeepsPending s t

namespace RowKept

theorem refl (s : State) : RowKept s s := ⟨rfl, rfl, .refl s⟩

theorem trans (h : RowKept s t) (k : RowKept t u) : RowKept s u :=
  ⟨k.rows.trans h.rows, k.sheets.trans h.sheets, h.pending.trans k.pending⟩

theorem of_parts (line : t.line = s.line) (links : t.links = s.links) : RowKept s t :=
  ⟨by rw [line], by rw [line], .of_links links⟩

theorem of_runs (runs : RunsOn s t) (pending : KeepsPending s t) : RowKept s t := ⟨runs.rows, runs.sheets, pending⟩

end RowKept

theorem recordCause_rowKept (n : Nat) (c : SetCause) (i : Option Nat) (s : State) : RowKept s (recordCause n c i s) :=
  .of_runs (recordCause_runsOn n c i s) (recordCause_keepsPending n c i s)

theorem recordCauseOpt_rowKept (n : Option Nat) (c : SetCause) (s : State) : RowKept s (recordCauseOpt n c s) :=
  .of_runs (recordCauseOpt_runsOn n c s) (recordCauseOpt_keepsPending n c s)

theorem testDivertedOpt_rowKept (n : Option Nat) (s : State) : RowKept s (testDivertedOpt n s) := by
  cases n with
  | none => exact .refl s
  | some n => exact .of_runs (testDiverted_runsOn n s) (testDivertedOpt_keepsPending (some n) s)

theorem makeOrphan_rowKept (tag : Option Nat) (reason : OrphanReason) (s : State) :
    RowKept s (makeOrphan tag reason s) := by
  unfold makeOrphan
  split
  · exact .refl s
  · exact ⟨congrArg (fun l => l.tally.rowsRead) (raiseCond_line _ _ s),
      congrArg (fun l => l.tally.sheetsTracked) (raiseCond_line _ _ s),
      (raiseCond_keepsPending rfl _ s).trans (.of_links rfl)⟩

theorem assignToRun_rowKept (id n : Nat) (s : State) : RowKept s (assignToRun id n s) := by
  unfold assignToRun
  split
  · exact .of_parts rfl rfl
  · exact .refl s

theorem acceptPage_rowKept (id n : Nat) (m : Mark) (s : State) : RowKept s (acceptPage id n m s) := by
  unfold acceptPage
  dsimp only
  split <;> exact .of_parts rfl rfl

theorem matchReading_rowKept (id n : Nat) (m : Mark) (s : State) : RowKept s (matchReading id n m s) := by
  have assigned : RowKept s (assignSheet id n none .waste s) := .of_parts rfl rfl
  unfold matchReading
  split
  · exact .refl s
  · split
    · exact assigned.trans (recordCause_rowKept _ _ _ _)
    · split
      · exact (assigned.trans (recordCause_rowKept _ _ _ _)).trans (.of_parts rfl rfl)
      · split
        · exact assigned.trans (recordCause_rowKept _ _ _ _)
        · exact acceptPage_rowKept id n m s

theorem matchFirst_rowKept (id : Nat) (m : Mark) (s : State) : RowKept s (matchFirst id m s) := by
  unfold matchFirst
  split
  · exact makeOrphan_rowKept _ _ s
  · split
    · exact makeOrphan_rowKept _ _ s
    · split
      · exact makeOrphan_rowKept _ _ s
      · exact (RowKept.of_parts (s := s) (t := startSet _ s) rfl rfl).trans (matchReading_rowKept _ _ _ _)
      · exact makeOrphan_rowKept _ _ s

theorem matchStart_rowKept (id : Nat) (m : Mark) (s : State) : RowKept s (matchStart id m s) := by
  unfold matchStart
  split
  · exact makeOrphan_rowKept _ _ s
  · exact (RowKept.of_parts (s := s) (t := s.setOrphanRun false) rfl rfl).trans (matchFirst_rowKept _ _ _)

theorem matchRun_rowKept (id n : Nat) (m : Mark) (s : State) : RowKept s (matchRun id n m s) := by
  have assigned := assignToRun_rowKept id n s
  unfold matchRun
  dsimp only
  split
  · exact assigned.trans (.of_parts rfl rfl)
  · exact assigned

theorem matchPage_rowKept (id : Nat) (m : Mark) (s : State) : RowKept s (matchPage id m s) := by
  have cleared : ∀ v, RowKept v (v.setRef .none) := fun v => .of_parts rfl rfl
  unfold matchPage
  split
  · exact matchStart_rowKept id m s
  · split
    · exact matchReading_rowKept _ _ _ s
    · exact ((recordCause_rowKept _ _ _ s).trans (cleared _)).trans (matchStart_rowKept id m _)
  · split
    · exact matchRun_rowKept _ _ _ s
    · exact (cleared s).trans (matchStart_rowKept id m _)

theorem faultReading_rowKept (c : SetCause) (s : State) : RowKept s (faultReading c s) := by
  unfold faultReading
  split
  · exact recordCause_rowKept _ _ _ s
  · exact .refl s

theorem matchUnread_rowKept (id : Nat) (s : State) : RowKept s (matchUnread id s) := by
  unfold matchUnread
  split
  · exact (RowKept.of_parts (s := s) (t := assignSheet id _ none .waste s) rfl rfl).trans (recordCause_rowKept _ _ _ _)
  · exact assignToRun_rowKept _ _ s
  · exact makeOrphan_rowKept _ _ s

theorem matchEntry_rowKept (id : Nat) (d : Decoded) (s : State) : RowKept s (matchEntry id d s) := by
  unfold matchEntry
  split
  · exact matchUnread_rowKept id s
  · split
    · exact .refl s
    · exact (faultReading_rowKept _ s).trans (.of_parts rfl rfl)
    · exact matchPage_rowKept _ _ s
    · exact matchPage_rowKept _ _ s

theorem evalTrackFull_rowKept (s : State) : RowKept s (evalTrackFull s) :=
  .of_runs (evalTrackFull_runsOn s) (evalTrackFull_keepsPending s)

theorem lineFault_rowKept (k : LineCause) (n : Option Nat) (s : State) : RowKept s (lineFault k n s) :=
  .of_runs (lineFault_runsOn k n s) (lineFault_keepsPending k n s)

theorem requestKnife_rowKept (row : Pos) (s : State) : RowKept s (requestKnife row s) :=
  .of_runs (requestKnife_runsOn row s) (requestKnife_keepsPending row s)

theorem removeSheet_rowKept (id : Nat) (s : State) : RowKept s (evalTrackFull (removeSheet id s)) :=
  (RowKept.of_parts (s := s) (t := removeSheet id s) rfl rfl).trans (evalTrackFull_rowKept _)

theorem retireLost_rowKept (e : SheetEntry) (s : State) : RowKept s (retireLost e s) := by
  have lost := (removeSheet_rowKept e.id s).trans (recordCauseOpt_rowKept e.set .missingSheet _)
  have faulted := (lost.trans (testDivertedOpt_rowKept e.set _)).trans (lineFault_rowKept .missingSheet e.set _)
  exact faulted.trans (.of_parts rfl rfl)

theorem retireAtOnce_rowKept (id : Nat) (s : State) : RowKept s (retireAtOnce id s) := by
  unfold retireAtOnce
  split
  · split
    · exact (removeSheet_rowKept _ s).trans (testDivertedOpt_rowKept _ _)
    · split
      · exact retireLost_rowKept _ s
      · exact .refl s
  · exact .refl s

/-- From s to t no row was counted, though sheets may have been. -/
structure SheetsTaken (s t : State) : Prop where
  rows : t.line.tally.rowsRead = s.line.tally.rowsRead
  pending : KeepsPending s t

theorem RowKept.taken (h : RowKept s t) : SheetsTaken s t := ⟨h.rows, h.pending⟩

theorem SheetsTaken.trans (h : SheetsTaken s t) (k : SheetsTaken t u) : SheetsTaken s u :=
  ⟨k.rows.trans h.rows, h.pending.trans k.pending⟩

/-- The state in which a sheet's entry has been made, matched and, if it came too late, retired. -/
def sheetMatched (row : Pos) (s : State) (x : RowSheet) : State :=
  retireAtOnce s.track.nextId
    (matchEntry s.track.nextId x.decoded ((appendEntry (newEntry s row x) s).noteMade s.track.nextId))

theorem enterSheet_eq (row : Pos) (s : State) (x : RowSheet) :
    enterSheet row s x = (sheetMatched row s x).withTally Tally.tracked := rfl

theorem sheetMatched_rowKept (row : Pos) (s : State) (x : RowSheet) : RowKept s (sheetMatched row s x) := by
  have made : RowKept s ((appendEntry (newEntry s row x) s).noteMade s.track.nextId) := .of_parts rfl rfl
  exact (made.trans (matchEntry_rowKept _ _ _)).trans (retireAtOnce_rowKept _ _)

theorem enterSheet_taken (row : Pos) (s : State) (x : RowSheet) : SheetsTaken s (enterSheet row s x) :=
  (sheetMatched_rowKept row s x).taken.trans ⟨rfl, .of_links rfl⟩

theorem enterSheet_sheets (row : Pos) (s : State) (x : RowSheet) :
    (enterSheet row s x).line.tally.sheetsTracked = satInc s.line.tally.sheetsTracked :=
  congrArg satInc (sheetMatched_rowKept row s x).sheets

theorem enterSheets_taken (row : Pos) (xs : List RowSheet) : ∀ s, SheetsTaken s (xs.foldl (enterSheet row) s) := by
  induction xs with
  | nil => exact fun s => (RowKept.refl s).taken
  | cons x xs ih => exact fun s => (enterSheet_taken row s x).trans (ih _)

theorem planRow_keepsPending (s : State) : KeepsPending s (planRow s) := by
  unfold planRow
  split
  · exact .refl s
  · exact extendPlan_keepsPending s

theorem planRow_rowKept (s : State) : RowKept s (planRow s) := .of_runs (planRow_runsOn s) (planRow_keepsPending s)

theorem enterRow_taken (r : DecodedRow) (s : State) : SheetsTaken s (enterRow r s) := by
  unfold enterRow
  split
  · exact (((lineFault_rowKept _ _ s).trans (faultReading_rowKept _ _)).trans (requestKnife_rowKept _ _)).taken
  · have planned : ∀ v, RowKept v (evalTrackFull (planRow (requestKnife r.row v))) := fun v =>
      ((requestKnife_rowKept r.row v).trans (planRow_rowKept _)).trans (evalTrackFull_rowKept _)
    exact (enterSheets_taken r.row r.sheets s).trans (planned _).taken

end Sys2Proof.Machine
end

section
/-! PROOFS. The Mark Reader row by row: bar events, row close, lock loss and the Mark Capture record (chapter 3). -/

namespace Sys2Proof.Machine
variable {s t u v : State}

/-! ### What the Tracking Engine and the end of an event leave to the reader -/

theorem Move.inner_profile {g : Bool} {u v : State} (m : Move .inner g u v) : v.table.profile = u.table.profile := by
  cases m with
  | lists _ _ p =>
    rcases p with p | p
    · exact p.1
    · cases p
  | cold _ _ _ h => cases h
  | _ => rfl

theorem Moves.inner_profile {g : Bool} (h : Moves .inner g s t) : t.table.profile = s.table.profile := by
  induction h with
  | refl => rfl
  | tail _ m ih => exact m.inner_profile.trans ih

/-- What the reading of a row rests on, and the record of decode errors, stay as they were. -/
structure SameReading (s t : State) : Prop where
  reader : t.reader = s.reader
  web : t.web = s.web
  profile : t.table.profile = s.table.profile

theorem Moves.sameReading {g : Bool} (h : Moves .inner g s t) : SameReading s t :=
  ⟨h.inner_reader, h.inner_web, h.inner_profile⟩

theorem SameReading.trans (h : SameReading s t) (k : SameReading t u) : SameReading s u :=
  ⟨k.reader.trans h.reader, k.web.trans h.web, k.profile.trans h.profile⟩

theorem enterRow_sameReading (r : DecodedRow) (s : State) : SameReading s (enterRow r s) :=
  ((Moves.here (c := .inner) (g := true) s).enterRow r).sameReading

theorem trackLockLoss_sameReading (s : State) : SameReading s (trackLockLoss s) :=
  (Moves.here (c := .inner) (g := true) s).trackLockLoss.sameReading

theorem event_sameReading (rule : State → State) (s : State) : SameReading (rule s.begin) (event rule s) where
  reader := (event_same rule s .reader (by decide)).trans (Moves.here (c := .inner) (g := false) _).settle.inner_reader
  web := (event_same rule s .web (by decide)).trans (Moves.here (c := .inner) (g := false) _).settle.inner_web
  profile := by
    rw [event_same rule s .table (by decide)]
    exact (Moves.here (c := .inner) (g := false) _).settle.inner_profile

/-! ### One row closes -/

/-- The reader on the next row after one that left a reference and a miss count. -/
def MarkReader.onNextRow (x : MarkReader) (ref : Pos) (miss : Nat) : MarkReader :=
  { x with
    openRow := some nextRow
    rowRef := some ref
    miss := miss }

/-- The state in which the row's emission has been taken and the lock is not yet tested. -/
def rowEntered (r : OpenRow) (s : State) : State := enterRow (decodedRow s r) (countRow (decodedRow s r) (advanceRow r s))

theorem rowEntered_reader (r : OpenRow) (s : State) :
    (rowEntered r s).reader = s.reader.onNextRow (closingRef s r) (nextMiss r s.reader.miss) :=
  (enterRow_sameReading _ _).reader

theorem rowEntered_web (r : OpenRow) (s : State) : (rowEntered r s).web = s.web := (enterRow_sameReading _ _).web

theorem rowEntered_profile (r : OpenRow) (s : State) : (rowEntered r s).table.profile = s.table.profile :=
  (enterRow_sameReading _ _).profile

theorem closeOne_eq (r : OpenRow) (s : State) :
    closeOne r s = if 2 ≤ nextMiss r s.reader.miss then loseLock (rowEntered r s) else rowEntered r s := rfl

theorem closeOne_goesOn {r : OpenRow} (few : nextMiss r s.reader.miss < 2) : closeOne r s = rowEntered r s := by
  rw [closeOne_eq, if_neg (by omega)]

theorem closeOne_loses {r : OpenRow} (second : 2 ≤ nextMiss r s.reader.miss) :
    closeOne r s = loseLock (rowEntered r s) := by rw [closeOne_eq, if_pos second]

theorem foldl_countSheet_rows (xs : List RowSheet) : ∀ x : Tally, (xs.foldl countSheet x).rowsRead = x.rowsRead := by
  induction xs with
  | nil => exact fun _ => rfl
  | cons y ys ih =>
    have one : ∀ x : Tally, (countSheet x y).rowsRead = x.rowsRead := fun x => by
      unfold countSheet
      split <;> rfl
    exact fun x => (ih _).trans (one x)

theorem rowEntered_rows (r : OpenRow) (s : State) :
    (rowEntered r s).line.tally.rowsRead = satInc s.line.tally.rowsRead :=
  (enterRow_taken _ _).rows.trans (foldl_countSheet_rows _ _)

theorem rowEntered_keepsPending (r : OpenRow) (s : State) : KeepsPending s (rowEntered r s) :=
  (KeepsPending.of_links rfl).trans (enterRow_taken _ _).pending

/-! ### The lock is lost -/

theorem faultReading_keepsPending (c : SetCause) (s : State) : KeepsPending s (faultReading c s) :=
  (faultReading_rowKept c s).pending

theorem trackLockLoss_keepsPending (s : State) : KeepsPending s (trackLockLoss s) :=
  (faultReading_keepsPending .lostLock s).trans (.of_links rfl)

theorem loseLock_reader (s : State) : (loseLock s).reader = huntingAt s.web.position s.reader :=
  (trackLockLoss_sameReading _).reader.trans (raiseCond_same .lockLost .none (enterHunt s) .reader (by decide))

theorem loseLock_profile (s : State) : (loseLock s).table.profile = s.table.profile := by
  refine (trackLockLoss_sameReading _).profile.trans ?_
  rw [raiseCond_same .lockLost .none (enterHunt s) .table (by decide)]
  rfl

theorem loseLock_pending (s : State) : (loseLock s).isPending .lockLost = true :=
  (trackLockLoss_keepsPending _ .lockLost rfl).trans (raiseCond_self_pending _ _ _)

theorem loseLock_capture (s : State) : (loseLock s).isPending .capture = s.isPending .capture := by
  refine (trackLockLoss_keepsPending _ .capture rfl).trans ?_
  rw [raiseCond_pending]
  exact Bool.or_false _

theorem loseLock_rows (s : State) : (loseLock s).line.tally.rowsRead = s.line.tally.rowsRead := by
  refine (faultReading_rowKept .lostLock _).rows.trans ?_
  rw [raiseCond_line]
  rfl

theorem closeOne_capture (r : OpenRow) (s : State) :
    (closeOne r s).reader.capture = s.reader.capture ∧ (closeOne r s).isPending .capture = s.isPending .capture := by
  have pending := rowEntered_keepsPending r s .capture rfl
  rw [closeOne_eq]
  split
  · exact ⟨by rw [loseLock_reader, rowEntered_reader]; rfl, (loseLock_capture _).trans pending⟩
  · exact ⟨by rw [rowEntered_reader]; rfl, pending⟩

/-! ### A row closes, and those after it that P has passed -/

theorem closePassed_stays {r : OpenRow} (fuel : Nat) (opened : s.reader.openRow = some r) (ahead : rowOver s r = false) :
    closePassed fuel s = s := by
  cases fuel with
  | zero => rfl
  | succ fuel =>
    unfold closePassed
    rw [opened]
    exact if_neg (ne_true_of_eq_false ahead)

theorem closePassed_hunting (fuel : Nat) (none : s.reader.openRow = none) : closePassed fuel s = s := by
  cases fuel with
  | zero => rfl
  | succ fuel =>
    unfold closePassed
    rw [none]

theorem closePassed_closes {r : OpenRow} (fuel : Nat) (opened : s.reader.openRow = some r) (passed : rowOver s r = true) :
    closePassed (fuel + 1) s = closePassed fuel (closeOne r s) := by
  conv_lhs => unfold closePassed
  rw [opened]
  exact if_pos passed

theorem closePassed_capture (fuel : Nat) : ∀ s : State, (closePassed fuel s).reader.capture = s.reader.capture ∧
    (closePassed fuel s).isPending .capture = s.isPending .capture := by
  induction fuel with
  | zero => exact fun _ => ⟨rfl, rfl⟩
  | succ fuel ih =>
    intro s
    have one := fun r => closeOne_capture r s
    unfold closePassed
    split
    · next r _ =>
      split
      · exact ⟨(ih _).1.trans (one r).1, (ih _).2.trans (one r).2⟩
      · exact ⟨rfl, rfl⟩
    · exact ⟨rfl, rfl⟩

theorem closeRow_capture (r : OpenRow) (s : State) : (closeRow r s).reader.capture = s.reader.capture ∧
    (closeRow r s).isPending .capture = s.isPending .capture :=
  ⟨(closePassed_capture 2 _).1.trans (closeOne_capture r s).1, (closePassed_capture 2 _).2.trans (closeOne_capture r s).2⟩

/-- Whether P has passed the far edge of the row that follows a reference (R51). -/
def nextOver (s : State) (ref : Pos) : Bool :=
  passed s.web.position (plus (plus ref s.table.profile.formLength) s.table.profile.tol)

theorem rowOver_nextRow {ref : Pos} (known : s.reader.rowRef = some ref) : rowOver s nextRow = nextOver s ref := by
  unfold rowOver windowCentre
  rw [known]
  rfl

theorem rowOver_rowEntered (r : OpenRow) (s : State) :
    rowOver (rowEntered r s) nextRow = nextOver s (closingRef s r) := by
  rw [rowOver_nextRow (ref := closingRef s r) (by rw [rowEntered_reader]; rfl)]
  unfold nextOver
  rw [rowEntered_web, rowEntered_profile]

theorem closeRow_goesOn {r : OpenRow} (few : nextMiss r s.reader.miss < 2) (ahead : nextOver s (closingRef s r) = false) :
    closeRow r s = rowEntered r s := by
  unfold closeRow
  rw [closeOne_goesOn few]
  exact closePassed_stays 2 (by rw [rowEntered_reader]; rfl) (by rw [rowOver_rowEntered]; exact ahead)

theorem closeRow_loses {r : OpenRow} (second : 2 ≤ nextMiss r s.reader.miss) :
    closeRow r s = loseLock (rowEntered r s) := by
  unfold closeRow
  rw [closeOne_loses second]
  exact closePassed_hunting 2 (by rw [loseLock_reader]; rfl)

theorem nextMiss_of_bar {r : OpenRow} {p : Pos} (seen : r.earliest = some p) (miss : Nat) : nextMiss r miss = 0 := by
  unfold nextMiss
  rw [seen]

theorem closingRef_of_bar {r : OpenRow} {p : Pos} (seen : r.earliest = some p) (s : State) : closingRef s r = p := by
  unfold closingRef
  rw [seen]

theorem nextMiss_of_none {r : OpenRow} (none : r.earliest = none) (miss : Nat) : nextMiss r miss = miss + 1 := by
  unfold nextMiss
  rw [none]

theorem closingRef_of_none {r : OpenRow} {ref : Pos} (none : r.earliest = none) (known : s.reader.rowRef = some ref) :
    closingRef s r = plus ref s.table.profile.formLength := by
  unfold closingRef
  rw [none, known]
  rfl

/-- Where P has passed the next two rows as well, both close with no bar and the lock is lost (assumption 12). -/
theorem closeRow_passesTwo {r : OpenRow} {p : Pos} (seen : r.earliest = some p) (next : nextOver s p = true)
    (third : nextOver s (plus p s.table.profile.formLength) = true) :
    (closeRow r s).reader.state = .hunt ∧ (closeRow r s).reader.openRow = none ∧
      (closeRow r s).isPending .lockLost = true := by
  have first : closeOne r s = rowEntered r s := closeOne_goesOn (by rw [nextMiss_of_bar seen]; omega)
  have reader : (rowEntered r s).reader = s.reader.onNextRow p 0 := by
    rw [rowEntered_reader, closingRef_of_bar seen, nextMiss_of_bar seen]
  have bare : nextRow.earliest = none := rfl
  have ref : closingRef (rowEntered r s) nextRow = plus p s.table.profile.formLength := by
    rw [closingRef_of_none (ref := p) bare (by rw [reader]; rfl), rowEntered_profile]
  have second : closeOne nextRow (rowEntered r s) = rowEntered nextRow (rowEntered r s) :=
    closeOne_goesOn (by rw [nextMiss_of_none bare, reader]; exact Nat.lt_succ_self 1)
  have secondReader : (rowEntered nextRow (rowEntered r s)).reader =
      (rowEntered r s).reader.onNextRow (plus p s.table.profile.formLength) 1 := by
    rw [rowEntered_reader, ref, nextMiss_of_none bare, reader]
    rfl
  have last : closeOne nextRow (rowEntered nextRow (rowEntered r s)) =
      loseLock (rowEntered nextRow (rowEntered nextRow (rowEntered r s))) :=
    closeOne_loses (by rw [nextMiss_of_none bare, secondReader]; exact Nat.le_refl 2)
  have over1 : rowOver (rowEntered r s) nextRow = true := by
    rw [rowOver_rowEntered, closingRef_of_bar seen]
    exact next
  have over2 : rowOver (rowEntered nextRow (rowEntered r s)) nextRow = true := by
    rw [rowOver_rowEntered, ref]
    unfold nextOver
    rw [rowEntered_web, rowEntered_profile]
    exact third
  have closed : closeRow r s = loseLock (rowEntered nextRow (rowEntered nextRow (rowEntered r s))) := by
    unfold closeRow
    rw [first, closePassed_closes 1 (by rw [reader]; rfl) over1, second,
      closePassed_closes 0 (by rw [secondReader]; rfl) over2, last]
    rfl
  rw [closed]
  refine ⟨?_, ?_, loseLock_pending _⟩
  · rw [loseLock_reader]
    rfl
  · rw [loseLock_reader]
    rfl

end Sys2Proof.Machine
end

section
/-! PROOFS. Bar events: the lock in HUNT, the bars of an open row, and the Mark Capture record (R48 to R60). -/

namespace Sys2Proof.Machine
variable {s t u v : State}

theorem exec_barEvent (lane : Lane) (pos : Pos) (c : Cells) (truncated : Bool) (s : State) :
    exec (.barEvent lane pos c truncated) s = .next (readBar lane pos c truncated s) := rfl

theorem readBar_ignored {lane : Lane} (h : s.line.sweep = true ∨ s.table.profileLoaded = false ∨
    (s.table.profile.layout = .oneUp ∧ lane = .right)) (pos : Pos) (c : Cells) (truncated : Bool) :
    readBar lane pos c truncated s = s := by
  unfold readBar barGoesOn
  rcases h with sweeps | unloaded | ⟨oneUp, right⟩
  · rw [if_pos sweeps]
  · simp [unloaded]
  · simp [oneUp, right]

theorem readBar_goesOn {lane : Lane} (noSweep : s.line.sweep = false) (loaded : s.table.profileLoaded = true)
    (laneRead : s.table.profile.layout = .oneUp → lane = .left) (pos : Pos) (c : Cells) (truncated : Bool) :
    readBar lane pos c truncated s = event (takeBar lane pos c truncated) s := by
  have goesOn : barGoesOn s lane = true := by
    unfold barGoesOn
    rw [loaded]
    cases layout : s.table.profile.layout with
    | twoUp => rfl
    | oneUp =>
      rw [laneRead layout]
      rfl
  unfold readBar
  rw [if_neg (ne_true_of_eq_false noSweep), if_pos goesOn]

/-! ### The Mark Capture record -/

theorem offerCapture_same (offer : Capture) (s : State) : SameExcept [.links, .reader, .ev] s (offerCapture offer s) := by
  unfold offerCapture
  dsimp only
  split
  · exact (setReader_same _).comp (raiseCond_same _ _ _) (by decide) (by decide)
  · split
    · exact (setReader_same _).mono (by decide)
    · exact .refl s

theorem offerCapture_reader (offer : Capture) (s : State) :
    (offerCapture offer s).reader = { s.reader with capture := (offerCapture offer s).reader.capture } := by
  unfold offerCapture
  dsimp only
  split
  · rw [raiseCond_same _ _ _ .reader (by decide)]
    rfl
  · split <;> rfl

theorem offerCapture_onlyRaised (offer : Capture) (s : State) : OnlyRaised s (offerCapture offer s) := by
  unfold offerCapture
  dsimp only
  split
  · exact (OnlyRaised.of_ev rfl).trans (raiseCond_onlyRaised _ _ _)
  · split
    · exact .of_ev rfl
    · exact .refl s

section
variable {offer : Capture}

theorem offerCapture_rises (rises : s.reader.capture.severity.code < offer.severity.code) :
    (offerCapture offer s).reader.capture = offer ∧ (offerCapture offer s).isPending .capture = true := by
  unfold offerCapture
  dsimp only
  rw [if_pos rises]
  exact ⟨by rw [raiseCond_same _ _ _ .reader (by decide)]; rfl, raiseCond_self_pending _ _ _⟩

theorem offerCapture_again (held : s.reader.capture.severity = .corrected) (again : offer.severity = .corrected) :
    (offerCapture offer s).reader.capture = offer ∧
      (offerCapture offer s).isPending .capture = s.isPending .capture := by
  unfold offerCapture
  dsimp only
  rw [if_neg (by rw [held, again]; omega), if_pos ⟨held, again⟩]
  exact ⟨rfl, rfl⟩

theorem offerCapture_keeps (lower : offer.severity.code < s.reader.capture.severity.code ∨
    s.reader.capture.severity = .uncorrectable) : offerCapture offer s = s := by
  have not_higher : ¬ s.reader.capture.severity.code < offer.severity.code := by
    rcases lower with lower | worst
    · omega
    · rw [worst]
      cases offer.severity <;> decide
  have not_again : ¬ (s.reader.capture.severity = .corrected ∧ offer.severity = .corrected) := by
    rintro ⟨held, again⟩
    rcases lower with lower | worst
    · rw [held, again] at lower
      omega
    · cases held.symm.trans worst
  unfold offerCapture
  dsimp only
  rw [if_neg not_higher, if_neg not_again]

end

section
variable {lane : Lane} {row : Pos} {truncated : Bool} {c : Cells} {d : Decoded}

theorem captureMark_clean (clean : offeredSeverity d = none) : captureMark lane row truncated c d s = s := by
  unfold captureMark
  rw [clean]

theorem captureMark_offers {severity : Severity} {withTag : Bool} (offered : offeredSeverity d = some (severity, withTag)) :
    captureMark lane row truncated c d s = offerCapture (captureOf lane row truncated c severity withTag) s := by
  unfold captureMark
  rw [offered]

/-- What the offer of a mark's decode error leaves as it was. -/
structure Captures (s t : State) : Prop where
  same : SameExcept [.links, .reader, .ev] s t
  reader : t.reader = { s.reader with capture := t.reader.capture }
  asked : OnlyRaised s t

theorem captureMark_captures : Captures s (captureMark lane row truncated c d s) := by
  cases offered : offeredSeverity d with
  | none =>
    rw [captureMark_clean offered]
    exact ⟨.refl s, rfl, .refl s⟩
  | some x =>
    rw [captureMark_offers offered]
    exact ⟨offerCapture_same _ s, offerCapture_reader _ s, offerCapture_onlyRaised _ s⟩

end

/-! ### A bar matched to the open row -/

/-- The bar of a bar event, decoded. -/
def barOf (pos : Pos) (c : Cells) (truncated : Bool) (s : State) : SeenBar :=
  { position := pos, decoded := decodeMark s.table.profile.strict truncated c }

/-- The open row with the bar of a bar event in it, its mark offered to the record. -/
def barSeen (r : OpenRow) (lane : Lane) (pos : Pos) (c : Cells) (truncated : Bool) (s : State) : State :=
  captureMark lane (minus (windowCentre s r) s.table.profile.markOffset) truncated c
    (decodeMark s.table.profile.strict truncated c)
    (s.setReader { s.reader with openRow := some (r.see lane (barOf pos c truncated s)) })

section
variable {r : OpenRow} {lane : Lane} {pos : Pos} {c : Cells} {truncated : Bool}

theorem barSeen_same : SameExcept [.links, .reader, .ev] s (barSeen r lane pos c truncated s) :=
  (setReader_same _).comp captureMark_captures.same (by decide) (by decide)

theorem barSeen_reader : (barSeen r lane pos c truncated s).reader =
    { s.reader with
      openRow := some (r.see lane (barOf pos c truncated s))
      capture := (barSeen r lane pos c truncated s).reader.capture } :=
  (captureMark_captures (lane := lane)).reader

theorem barSeen_onlyRaised : OnlyRaised s (barSeen r lane pos c truncated s) :=
  (OnlyRaised.of_ev rfl).trans captureMark_captures.asked

theorem OpenRow.see_first (b : SeenBar) : (r.see lane b).first = r.first := by cases lane <;> rfl

theorem rowOver_barSeen (b : SeenBar) : rowOver (barSeen r lane pos c truncated s) (r.see lane b) = rowOver s r := by
  unfold rowOver windowCentre windowHalf
  rw [OpenRow.see_first, barSeen_reader, barSeen_same .table (by decide), barSeen_same .web (by decide)]

theorem matchBar_eq : matchBar r lane pos c truncated s =
    if (r.see lane (barOf pos c truncated s)).full s.table.profile.layout || rowOver s r then
      closeRow (r.see lane (barOf pos c truncated s)) (barSeen r lane pos c truncated s)
    else barSeen r lane pos c truncated s := by
  have over' := rowOver_barSeen (s := s) (r := r) (lane := lane) (pos := pos) (c := c) (truncated := truncated)
    (barOf pos c truncated s)
  rw [← over']
  rfl

/-- The state in which a bar event in HUNT is matched to the first row. -/
def lockedOn (pos : Pos) (s : State) : State := setHold .readerHunting false (lockOn pos s)

theorem takeBar_hunting (hunt : s.reader.state = .hunt) : takeBar lane pos c truncated s =
    matchBar firstRow lane pos c truncated (lockedOn pos s) := by
  unfold takeBar
  split
  · next locked _ => cases hunt.symm.trans locked
  · rfl

theorem takeBar_locked (locked : s.reader.state = .locked) (opened : s.reader.openRow = some r) :
    takeBar lane pos c truncated s =
      if (r.bar lane).isNone && within (windowHalf s r) pos (windowCentre s r) then matchBar r lane pos c truncated s
      else s := by
  unfold takeBar
  rw [locked, opened]

end

/-! ### The lock -/

theorem lockedOn_reader (pos : Pos) (s : State) : (lockedOn pos s).reader =
    { s.reader with
      state := .locked
      rowRef := some pos
      openRow := some firstRow } := setHold_same _ _ _ .reader (by decide)

theorem lockedOn_web (pos : Pos) (s : State) : (lockedOn pos s).web = s.web := setHold_same _ _ _ .web (by decide)

theorem lockedOn_table (pos : Pos) (s : State) : (lockedOn pos s).table = s.table :=
  setHold_same _ _ _ .table (by decide)

theorem rowOver_lockedOn (pos : Pos) (s : State) :
    rowOver (lockedOn pos s) firstRow = passed s.web.position (plus pos s.table.profile.skew) := by
  unfold rowOver windowCentre windowHalf
  rw [lockedOn_reader, lockedOn_web, lockedOn_table]
  rfl

theorem firstRow_earliest (lane : Lane) (b : SeenBar) : (firstRow.see lane b).earliest = some b.position := by
  cases lane <;> rfl

theorem firstRow_full_twoUp (lane : Lane) (b : SeenBar) : (firstRow.see lane b).full .twoUp = false := by
  cases lane <;> rfl

/-- Settles O42: the lock, then the first row as it closes or stays open. -/
theorem barEventLocksTheReader : Obligations.BarEventLocksTheReader := by
  unfold Obligations.BarEventLocksTheReader
  intro lane pos c truncated s
  refine ⟨fun ignored => by rw [exec_barEvent, readBar_ignored ignored], fun noSweep loaded laneRead hunt => ?_⟩
  have taken : takeBar lane pos c truncated s.begin =
      if (firstRow.see lane (barOf pos c truncated s)).full s.table.profile.layout ||
          passed s.web.position (plus pos s.table.profile.skew) then
        closeRow (firstRow.see lane (barOf pos c truncated s)) (barSeen firstRow lane pos c truncated (lockedOn pos s.begin))
      else barSeen firstRow lane pos c truncated (lockedOn pos s.begin) := by
    have over' := rowOver_lockedOn pos s.begin
    have table := lockedOn_table pos s.begin
    have bar : barOf pos c truncated (lockedOn pos s.begin) = barOf pos c truncated s := by
      unfold barOf
      rw [table]
      rfl
    rw [takeBar_hunting (s := s.begin) hunt]
    refine matchBar_eq.trans ?_
    rw [bar, table, over']
    rfl
  have seen := barSeen_reader (r := firstRow) (lane := lane) (pos := pos) (c := c) (truncated := truncated)
    (s := lockedOn pos s.begin)
  have bar : barOf pos c truncated (lockedOn pos s.begin) = barOf pos c truncated s := by
    unfold barOf
    rw [lockedOn_table]
    rfl
  have web : (barSeen firstRow lane pos c truncated (lockedOn pos s.begin)).web = s.web :=
    (barSeen_same .web (by decide)).trans (lockedOn_web _ _)
  have table : (barSeen firstRow lane pos c truncated (lockedOn pos s.begin)).table = s.table :=
    (barSeen_same .table (by decide)).trans (lockedOn_table _ _)
  rw [bar, lockedOn_reader] at seen
  have kept := event_sameReading (takeBar lane pos c truncated) s
  rw [exec_barEvent, readBar_goesOn noSweep loaded laneRead]
  refine ⟨_, rfl, fun twoUp inTime => ?_, fun closes => ?_⟩
  · rw [kept.reader, taken, twoUp, firstRow_full_twoUp, inTime, if_neg (by simp), seen]
    exact ⟨rfl, rfl, rfl⟩
  · have full : ((firstRow.see lane (barOf pos c truncated s)).full s.table.profile.layout ||
        passed s.web.position (plus pos s.table.profile.skew)) = true := by
      rcases closes with oneUp | late
      · rw [oneUp, laneRead oneUp]
        rfl
      · rw [late, Bool.or_true]
    rw [full, if_pos rfl] at taken
    have earliest := firstRow_earliest lane (barOf pos c truncated s)
    generalize barSeen firstRow lane pos c truncated (lockedOn pos s.begin) = v at taken seen web table
    have next : nextOver v pos =
        passed s.web.position (plus (plus pos s.table.profile.formLength) s.table.profile.tol) := by
      unfold nextOver
      rw [web, table]
    have third : nextOver v (plus pos v.table.profile.formLength) = passed s.web.position
        (plus (plus (plus pos s.table.profile.formLength) s.table.profile.formLength) s.table.profile.tol) := by
      unfold nextOver
      rw [web, table]
    refine ⟨fun ahead => ?_, fun passed1 passed2 => ?_⟩
    · have closed := closeRow_goesOn (s := v) (r := firstRow.see lane (barOf pos c truncated s))
        (by rw [nextMiss_of_bar earliest]; omega) (by rw [closingRef_of_bar earliest]; exact next.trans ahead)
      rw [kept.reader, taken, closed, rowEntered_reader, closingRef_of_bar earliest, nextMiss_of_bar earliest, seen]
      exact ⟨rfl, rfl, rfl, rfl⟩
    · have lost := closeRow_passesTwo (s := v) earliest (next.trans passed1) (third.trans passed2)
      rw [kept.reader, event_keepsPending_rule _ s .lockLost rfl, taken]
      exact lost

end Sys2Proof.Machine
end

section
/-! PROOFS. The reader in LOCKED (R50 to R60). -/

namespace Sys2Proof.Machine
variable {s t u v : State}

/-! ### The window of the open row -/

theorem windowCentre_known {r : OpenRow} {ref : Pos} (known : s.reader.rowRef = some ref) :
    windowCentre s r = if r.first = true then ref else plus ref s.table.profile.formLength := by
  unfold windowCentre
  rw [known]
  rfl

theorem event_rows (rule : State → State) (s : State) :
    (event rule s).line.tally.rowsRead = (rule s.begin).line.tally.rowsRead := (event_runsOn rule s).rows

theorem event_capture (rule : State → State) (s : State) :
    (event rule s).isPending .capture = (rule s.begin).isPending .capture :=
  event_keepsPending_rule rule s .capture rfl

/-! ### The offer to the Mark Capture record -/

section
variable {r : OpenRow} {lane : Lane} {pos : Pos} {c : Cells} {truncated : Bool}

theorem barSeen_clean (clean : offeredSeverity (decodeMark s.table.profile.strict truncated c) = none) :
    (barSeen r lane pos c truncated s).reader.capture = s.reader.capture ∧
      (barSeen r lane pos c truncated s).isPending .capture = s.isPending .capture := by
  unfold barSeen
  rw [captureMark_clean clean]
  exact ⟨rfl, rfl⟩

/-- How the record and its condition stand after an offer of this capture (R59, R60). -/
structure Offered (offer : Capture) (s t : State) : Prop where
  rises : s.reader.capture.severity.code < offer.severity.code →
    t.reader.capture = offer ∧ t.isPending .capture = true
  again : s.reader.capture.severity = .corrected → offer.severity = .corrected →
    t.reader.capture = offer ∧ t.isPending .capture = s.isPending .capture
  keeps : offer.severity.code < s.reader.capture.severity.code ∨ s.reader.capture.severity = .uncorrectable →
    t.reader.capture = s.reader.capture ∧ t.isPending .capture = s.isPending .capture

theorem barSeen_offered {severity : Severity} {withTag : Bool}
    (offered : offeredSeverity (decodeMark s.table.profile.strict truncated c) = some (severity, withTag)) :
    Offered (captureOf lane (minus (windowCentre s r) s.table.profile.markOffset) truncated c severity withTag) s
      (barSeen r lane pos c truncated s) := by
  unfold barSeen
  rw [captureMark_offers offered]
  refine ⟨fun rises => offerCapture_rises rises, fun held again => offerCapture_again held again, fun lower => ?_⟩
  rw [offerCapture_keeps (s := s.setReader { s.reader with openRow := some (r.see lane (barOf pos c truncated s)) }) lower]
  exact ⟨rfl, rfl⟩

theorem Offered.of_same {offer : Capture} (h : Offered offer s t) (capture : u.reader.capture = t.reader.capture)
    (pending : u.isPending .capture = t.isPending .capture) : Offered offer s u := by
  refine ⟨?_, ?_, ?_⟩ <;> rw [capture, pending]
  · exact h.rises
  · exact h.again
  · exact h.keeps

theorem matchBar_capture :
    (matchBar r lane pos c truncated s).reader.capture = (barSeen r lane pos c truncated s).reader.capture ∧
      (matchBar r lane pos c truncated s).isPending .capture = (barSeen r lane pos c truncated s).isPending .capture := by
  rw [matchBar_eq]
  split
  · exact closeRow_capture _ _
  · exact ⟨rfl, rfl⟩

/-! ### A bar in LOCKED -/

theorem takeBar_ignored (locked : s.reader.state = .locked) (opened : s.reader.openRow = some r)
    (out : (r.bar lane).isSome ∨ within (windowHalf s r) pos (windowCentre s r) = false) :
    takeBar lane pos c truncated s = s := by
  rw [takeBar_locked locked opened]
  refine if_neg ?_
  rcases out with seen | outside
  · simp [Option.isSome_iff_ne_none.1 seen]
  · simp [outside]

theorem takeBar_matched (locked : s.reader.state = .locked) (opened : s.reader.openRow = some r)
    (unseen : r.bar lane = none) (inside : within (windowHalf s r) pos (windowCentre s r) = true) :
    takeBar lane pos c truncated s = matchBar r lane pos c truncated s := by
  rw [takeBar_locked locked opened, unseen, inside]
  rfl

end

/-! ### The step that passes the far edge -/

theorem takeWatch_rowEdge {r : OpenRow} (opened : s.reader.openRow = some r) (edge : rowOver s r = true) :
    takeWatch s .rowEdge = event (closeRow r) s := by
  unfold takeWatch
  rw [opened]
  exact if_pos edge

theorem rowOver_of_watched {r : OpenRow} (opened : s.reader.openRow = some r) (watched : Watch.rowEdge ∈ dueWatches s) :
    rowOver s r = true := by
  unfold dueWatches at watched
  have over' : edgeOver s = true := by
    by_contra no
    rw [if_neg no] at watched
    simp only [List.nil_append, List.mem_append, List.mem_map, reduceCtorEq, and_false, exists_false, false_or] at watched
    split at watched <;> simp at watched
  unfold edgeOver at over'
  rw [opened] at over'
  exact over'

theorem stepWeb_rowEdge {r : OpenRow} {d : Direction} (noSweep : s.line.sweep = false)
    (opened : s.reader.openRow = some r) (alone : dueWatches (movePosition d s) = [.rowEdge]) :
    exec (.encoderStep d) s = .next (event (closeRow r) (movePosition d s)) := by
  have edge : rowOver (movePosition d s) r = true :=
    rowOver_of_watched (s := movePosition d s) opened (by rw [alone]; simp)
  rw [exec_encoderStep, stepWeb_open _ noSweep, alone]
  exact congrArg Host.Outcome.next (takeWatch_rowEdge (s := movePosition d s) opened edge)

theorem event_rowEntered {rule : State → State} {r : OpenRow} (closes : rule s.begin = rowEntered r u) :
    (event rule s).reader = u.reader.onNextRow (closingRef u r) (nextMiss r u.reader.miss) ∧
      (event rule s).line.tally.rowsRead = satInc u.line.tally.rowsRead := by
  rw [(event_sameReading rule s).reader, event_rows, closes]
  exact ⟨rowEntered_reader r u, rowEntered_rows r u⟩

theorem event_loseLock {rule : State → State} {r : OpenRow} (loses : rule s.begin = loseLock (rowEntered r u)) :
    (event rule s).reader = huntingAt u.web.position u.reader ∧ (event rule s).isPending .lockLost = true ∧
      (event rule s).track.ref = .none ∧ (event rule s).track.orphanRun = false ∧
      (event rule s).line.tally.rowsRead = satInc u.line.tally.rowsRead := by
  have runs := event_runsOn rule s
  rw [loses] at runs
  refine ⟨?_, ?_, runs.ref rfl, runs.orphanRun, ?_⟩
  · rw [(event_sameReading rule s).reader, loses, loseLock_reader, rowEntered_web, rowEntered_reader]
    rfl
  · rw [event_keepsPending_rule rule s .lockLost rfl, loses]
    exact loseLock_pending _
  · rw [runs.rows, loseLock_rows]
    exact rowEntered_rows r u

/-- Settles O43: the bars of the open row, then the step that passes its far edge. -/
theorem lockedReaderReadsRowByRow : Obligations.LockedReaderReadsRowByRow := by
  unfold Obligations.LockedReaderReadsRowByRow
  intro r ref centre half s noSweep loaded locked opened known isCentre isHalf
  have window : windowCentre s.begin r = centre ∧ windowHalf s.begin r = half :=
    ⟨(windowCentre_known (s := s.begin) known).trans isCentre.symm, isHalf.symm⟩
  obtain ⟨windowCentre', windowHalf'⟩ := window
  refine ⟨fun lane pos c truncated laneRead => ⟨fun out => ?_, fun d r' unseen inside inTime isD isR' => ?_⟩,
    fun d p isP alone => ?_⟩
  · have ignored : takeBar lane pos c truncated s.begin = s.begin :=
      takeBar_ignored (s := s.begin) locked opened (by rw [windowCentre', windowHalf']; exact out)
    rw [exec_barEvent, readBar_goesOn noSweep loaded laneRead, event_idle _ (by rw [ignored]; rfl), ignored]
    rfl
  · have taken : takeBar lane pos c truncated s.begin = matchBar r lane pos c truncated s.begin :=
      takeBar_matched (s := s.begin) locked opened unseen (by rw [windowCentre', windowHalf']; exact inside)
    have bar : r.see lane (barOf pos c truncated s.begin) = r' := by
      rw [isR', isD]
      rfl
    have early : rowOver s.begin r = false := by
      unfold rowOver
      rw [windowCentre', windowHalf']
      exact inTime
    have matched : takeBar lane pos c truncated s.begin =
        if r'.full s.table.profile.layout then closeRow r' (barSeen r lane pos c truncated s.begin)
        else barSeen r lane pos c truncated s.begin := by
      rw [taken, matchBar_eq, bar, early, Bool.or_false]
      rfl
    have seen := barSeen_reader (r := r) (lane := lane) (pos := pos) (c := c) (truncated := truncated) (s := s.begin)
    have same := barSeen_same (r := r) (lane := lane) (pos := pos) (c := c) (truncated := truncated) (s := s.begin)
    have asked := barSeen_onlyRaised (r := r) (lane := lane) (pos := pos) (c := c) (truncated := truncated) (s := s.begin)
    have capture : (event (takeBar lane pos c truncated) s).reader.capture =
        (barSeen r lane pos c truncated s.begin).reader.capture := by
      rw [(event_sameReading _ s).reader, taken]
      exact matchBar_capture.1
    have pending : (event (takeBar lane pos c truncated) s).isPending .capture =
        (barSeen r lane pos c truncated s.begin).isPending .capture := by
      rw [event_capture, taken]
      exact matchBar_capture.2
    rw [bar] at seen
    rw [exec_barEvent, readBar_goesOn noSweep loaded laneRead]
    refine ⟨_, rfl, fun waits => ?_, fun new full earliest ahead => ?_, fun clean => ?_,
      fun severity withTag offer offered isOffer => ?_⟩
    · rw [waits, if_neg (by simp)] at matched
      have settled : Settled (takeBar lane pos c truncated s.begin) := by
        rw [matched]
        exact asked.settled
      have whole := event_of_settled settled
      rw [matched] at whole
      rw [whole .reader (by decide), whole .track (by decide), whole .table (by decide), whole .line (by decide), seen,
        same .track (by decide), same .table (by decide), same .line (by decide)]
      exact ⟨locked, rfl, known, rfl, rfl, rfl, rfl⟩
    · rw [full, if_pos rfl] at matched
      have next : nextOver (barSeen r lane pos c truncated s.begin) (closingRef (barSeen r lane pos c truncated s.begin) r')
          = false := by
        unfold nextOver
        rw [closingRef_of_bar earliest, same .web (by decide), same .table (by decide)]
        exact ahead
      rw [closeRow_goesOn (by rw [nextMiss_of_bar earliest]; omega) next] at matched
      have entered := event_rowEntered matched
      rw [entered.1, entered.2, closingRef_of_bar earliest, nextMiss_of_bar earliest, seen, same .line (by decide)]
      exact ⟨locked, rfl, rfl, rfl, rfl⟩
    · rw [isD] at clean
      rw [capture, pending]
      exact barSeen_clean (s := s.begin) clean
    · rw [isD] at offered
      have offers := barSeen_offered (s := s.begin) (r := r) (lane := lane) (pos := pos) offered
      rw [windowCentre'] at offers
      have severity' : offer.severity = severity := by
        rw [isOffer]
        rfl
      rw [← severity', isOffer]
      have final := offers.of_same capture pending
      exact ⟨final.rises, final.again, final.keeps⟩
  · have run := stepWeb_rowEdge (d := d) noSweep opened alone
    have position : (movePosition d s).begin.web.position = p := isP.symm
    refine ⟨_, run, fun new earliest ahead => ?_, fun later none miss ahead => ?_, fun later none miss => ?_⟩
    · have goes : closeRow r (movePosition d s).begin = rowEntered r (movePosition d s).begin :=
        closeRow_goesOn (by rw [nextMiss_of_bar earliest]; omega)
          (by unfold nextOver; rw [closingRef_of_bar earliest, position]; exact ahead)
      have entered := event_rowEntered goes
      rw [closingRef_of_bar earliest, nextMiss_of_bar earliest] at entered
      exact entered
    · rw [later] at isCentre
      have ref' : closingRef (movePosition d s).begin r = centre :=
        (closingRef_of_none none known).trans isCentre.symm
      have miss' : nextMiss r (movePosition d s).begin.reader.miss = 1 := by
        rw [nextMiss_of_none none]
        exact congrArg (· + 1) miss
      have goes : closeRow r (movePosition d s).begin = rowEntered r (movePosition d s).begin :=
        closeRow_goesOn (by rw [miss']; omega) (by unfold nextOver; rw [ref', position]; exact ahead)
      have entered := event_rowEntered goes
      rw [ref', miss'] at entered
      exact entered
    · have miss' : nextMiss r (movePosition d s).begin.reader.miss = 2 := by
        rw [nextMiss_of_none none]
        exact congrArg (· + 1) miss
      have lost := event_loseLock (closeRow_loses (by rw [miss']))
      rw [position] at lost
      exact lost

end Sys2Proof.Machine
end

section
/-! PROOFS. Matching a new sheet to its set (R74 to R84). -/

namespace Sys2Proof.Machine
variable {s t u v : State} {n m id : Nat}

/-! ### Changes that touch one record -/

/-- From s to t the Set Table changed in no record but that of set n. -/
def OnlySet (n : Nat) (s t : State) : Prop :=
  ∃ f : SetRec → SetRec, (∀ r, (f r).number = r.number) ∧ (∀ r, r.number ≠ n → f r = r) ∧
    t.table.records = s.table.records.map f

namespace OnlySet

theorem of_table (h : t.table = s.table) : OnlySet n s t :=
  ⟨id, fun _ => rfl, fun _ _ => rfl, by rw [h, List.map_id]⟩

theorem trans (h : OnlySet n s t) (k : OnlySet n t u) : OnlySet n s u := by
  obtain ⟨f, number, others, records⟩ := h
  obtain ⟨g, number', others', records'⟩ := k
  refine ⟨g ∘ f, fun r => (number' _).trans (number r), fun r other => ?_, by rw [records', records, List.map_map]⟩
  rw [Function.comp_apply, others r other, others' r other]

theorem updateSet {f : SetRec → SetRec} (number : ∀ r, (f r).number = r.number) (s : State) :
    OnlySet n s (updateSet n f s) := by
  refine ⟨fun r => if r.number = n then f r else r, fun r => ?_, fun r other => if_neg other, rfl⟩
  dsimp only
  split
  · exact number r
  · rfl

theorem findSet_other (h : OnlySet n s t) (other : m ≠ n) : t.findSet m = s.findSet m := by
  obtain ⟨f, number, others, records⟩ := h
  unfold State.findSet
  have lookup : ((fun r : SetRec => r.number == m) ∘ f) = fun r => r.number == m :=
    funext fun r => congrArg (· == m) (number r)
  rw [records, List.find?_map, lookup]
  cases found : s.table.records.find? fun r => r.number == m with
  | none => rfl
  | some r => exact congrArg some (others r (by rw [show r.number = m by simpa using List.find?_some found]; exact other))

theorem findTag (h : OnlySet n s t) (tag : Nat) : ∃ f : SetRec → SetRec, (∀ r, (f r).number = r.number) ∧
    (∀ r, r.number ≠ n → f r = r) ∧ t.findTag tag = (s.findTag tag).map f := by
  obtain ⟨f, number, others, records⟩ := h
  refine ⟨f, number, others, ?_⟩
  unfold State.findTag
  have lookup : ((fun r : SetRec => r.tag == tag) ∘ f) = fun r => r.tag == tag :=
    funext fun r => congrArg (fun k => k % 16384 == tag) (number r)
  rw [records, List.find?_map, lookup]

theorem tableOk (h : OnlySet n s t) (table : TableOk s.table) : TableOk t.table := by
  obtain ⟨f, number, -, records⟩ := h
  exact (table.map f fun r _ => number r).of_records records

end OnlySet

theorem findSet_of_mem (table : TableOk s.table) {r : SetRec} (mem : r ∈ s.table.records) :
    s.findSet r.number = some r := table.find mem

theorem findTag_mem {tag : Nat} {r : SetRec} (found : s.findTag tag = some r) : r ∈ s.table.records ∧ r.tag = tag :=
  ⟨List.mem_of_find?_eq_some found, by simpa using List.find?_some found⟩

theorem findSet_of_findTag (table : TableOk s.table) {tag : Nat} {r : SetRec} (found : s.findTag tag = some r) :
    s.findSet r.number = some r := findSet_of_mem table (findTag_mem found).1

theorem makeTerminal_onlySet (n : Nat) (x : SetState) (s : State) : OnlySet n s (makeTerminal n x s) := by
  unfold makeTerminal
  split
  · exact (OnlySet.updateSet (SetRec.put_number x) s).trans (.of_table rfl)
  · exact .of_table rfl

theorem testDiverted_onlySet (n : Nat) (s : State) : OnlySet n s (testDiverted n s) := by
  unfold testDiverted
  split
  · exact makeTerminal_onlySet _ _ s
  · exact .of_table rfl

/-! ### A sheet found after the list's entries changed -/

theorem findSheet_of_map {f : SheetEntry → SheetEntry} (keeps : ∀ x, (f x).id = x.id)
    (list : t.track.list = s.track.list.map f) (id : Nat) : t.findSheet id = (s.findSheet id).map f := by
  unfold State.findSheet
  have lookup : ((fun x : SheetEntry => x.id == id) ∘ f) = fun x => x.id == id :=
    funext fun x => congrArg (· == id) (keeps x)
  rw [list, List.find?_map, lookup]

/-! ### A cause recorded -/

/-- A sheet as the turn to waste of set n leaves it (R85). -/
def SheetEntry.turned (n : Nat) (e : SheetEntry) : SheetEntry :=
  if turns n e then { e with disposition := .waste } else e

theorem SheetEntry.turned_id (n : Nat) (e : SheetEntry) : (e.turned n).id = e.id := by
  unfold turned
  split <;> rfl

theorem SheetEntry.turned_set (n : Nat) (e : SheetEntry) : (e.turned n).set = e.set := by
  unfold turned
  split <;> rfl

theorem SheetEntry.turned_waste {e : SheetEntry} (waste : e.disposition = .waste) (n : Nat) : e.turned n = e := by
  unfold turned turns
  rw [waste, if_neg (by simp)]

/-- The state with the cause recorded against set n, before the test of R7 (R6). -/
def causeTaken (n : Nat) (c : SetCause) (i : Option Nat) (s : State) : State :=
  (turnToWaste n (followRef n (stopHoldOf n (updateSet n (SetRec.fail c i) s)))).askDump

theorem recordCause_open {r : SetRec} (c : SetCause) (i : Option Nat) (found : s.findSet n = some r)
    (opens : r.open = true) : recordCause n c i s = testDiverted n (causeTaken n c i s) := by
  unfold recordCause
  rw [found]
  exact if_pos opens

section
variable {c : SetCause} {i : Option Nat}

theorem turnToWaste_track (n : Nat) (s : State) :
    (turnToWaste n s).track = { s.track with list := s.track.list.map (SheetEntry.turned n) } := by
  unfold turnToWaste
  split <;> rfl

theorem causeTaken_track : (causeTaken n c i s).track =
    { s.track with
      list := s.track.list.map (SheetEntry.turned n)
      ref := faultRef n s.track.ref } := by
  have track : (stopHoldOf n (updateSet n (SetRec.fail c i) s)).track = s.track := stopHoldOf_same n _ .track (by decide)
  show (turnToWaste n (followRef n (stopHoldOf n (updateSet n (SetRec.fail c i) s)))).track = _
  rw [turnToWaste_track]
  show ({ (stopHoldOf n (updateSet n (SetRec.fail c i) s)).track with
    list := (stopHoldOf n (updateSet n (SetRec.fail c i) s)).track.list.map (SheetEntry.turned n)
    ref := faultRef n (stopHoldOf n (updateSet n (SetRec.fail c i) s)).track.ref } : Tracking) = _
  rw [track]

theorem causeTaken_table : (causeTaken n c i s).table = (updateSet n (SetRec.fail c i) s).table := by
  have turned : (turnToWaste n (followRef n (stopHoldOf n (updateSet n (SetRec.fail c i) s)))).table =
      (stopHoldOf n (updateSet n (SetRec.fail c i) s)).table := turnToWaste_same n _ .table (by decide)
  exact turned.trans (stopHoldOf_same n _ .table (by decide))

theorem causeTaken_found {r : SetRec} (found : s.findSet n = some r) (opens : r.open = true) :
    (causeTaken n c i s).findSet n = some { r with state := .rejecting, cause := some c, failingStep := i } := by
  rw [findSet_of_table causeTaken_table, findSet_updateSet_self _ (SetRec.fail_number c i) found]
  unfold SetRec.fail
  rw [if_pos opens]

theorem causeTaken_onlySet : OnlySet n s (causeTaken n c i s) :=
  (OnlySet.updateSet (SetRec.fail_number c i) s).trans (.of_table causeTaken_table)

theorem causeTaken_findSheet (id : Nat) :
    (causeTaken n c i s).findSheet id = (s.findSheet id).map (SheetEntry.turned n) :=
  findSheet_of_map (SheetEntry.turned_id n) (by rw [causeTaken_track]) id

/-- A set that a sheet of the Transit List holds stays, REJECTING. -/
theorem recordCause_sheet {r : SetRec} {e : SheetEntry} (found : s.findSet n = some r) (opens : r.open = true)
    (sheet : s.findSheet id = some e) (set : e.set = some n) : recordCause n c i s = causeTaken n c i s := by
  have there : (causeTaken n c i s).findSheet id = some (e.turned n) := by
    rw [causeTaken_findSheet, sheet]
    rfl
  rw [recordCause_open c i found opens]
  exact testDiverted_held (holdsSet_of_sheet (findSheet_mem there).1 ((e.turned_set n).trans set))

theorem recordCause_onlySet : OnlySet n s (recordCause n c i s) := by
  cases found : s.findSet n with
  | none =>
    rw [recordCause_closed c i fun r h => by cases found.symm.trans h]
    exact .of_table rfl
  | some r =>
    by_cases opens : r.open = true
    · rw [recordCause_open c i found opens]
      exact causeTaken_onlySet.trans (testDiverted_onlySet n _)
    · rw [recordCause_closed c i fun r' h => by
        cases found.symm.trans h
        exact Bool.eq_false_of_not_eq_true opens]
      exact .of_table rfl

theorem testDiverted_keepsCause {r : SetRec} (found : s.findSet n = some r) (rejecting : r.state = .rejecting) :
    ∃ r', (testDiverted n s).findSet n = some r' ∧ r'.cause = r.cause ∧ r'.state ≠ .pending := by
  unfold testDiverted
  split
  · exact ⟨_, makeTerminal_found .diverted found (by rw [rejecting]; rfl), rfl, fun h => by cases h⟩
  · exact ⟨r, found, rfl, by rw [rejecting]; exact fun h => by cases h⟩

theorem testDiverted_findSheet {e : SheetEntry} (sheet : s.findSheet id = some e) (unassigned : e.set = none)
    (n : Nat) : (testDiverted n s).findSheet id = some e := by
  have detached : (detachSheets n ((putSetState n .diverted s).withTally (Tally.ended .diverted))).findSheet id =
      some e := by
    have lookup := findSheet_of_map (s := s)
      (t := detachSheets n ((putSetState n .diverted s).withTally (Tally.ended .diverted)))
      (f := fun e => if e.set = some n then { e with set := none } else e)
      (fun x => by split <;> rfl) rfl id
    rw [lookup, sheet, Option.map_some, if_neg (by rw [unassigned]; simp)]
  unfold testDiverted
  split
  · unfold makeTerminal
    split
    · exact detached
    · exact sheet
  · exact sheet

/-- A set in the machine with no cause takes the cause, and a new sheet of no set stays as it is. -/
theorem recordCause_fails {r : SetRec} (found : s.findSet n = some r) (opens : r.open = true) :
    (∃ r', (recordCause n c i s).findSet n = some r' ∧ r'.cause = some c ∧ r'.state ≠ .pending) ∧
      ∀ e, s.findSheet id = some e → e.set = none → e.disposition = .waste →
        (recordCause n c i s).findSheet id = some e := by
  rw [recordCause_open c i found opens]
  refine ⟨testDiverted_keepsCause (causeTaken_found found opens) rfl, fun e sheet unassigned waste => ?_⟩
  refine testDiverted_findSheet ?_ unassigned n
  rw [causeTaken_findSheet, sheet, Option.map_some, SheetEntry.turned_waste waste]

end

/-! ### Orphans -/

theorem makeOrphan_inRun (running : s.track.orphanRun = true) (tag : Option Nat) (reason : OrphanReason) :
    makeOrphan tag reason s = s := if_pos running

theorem makeOrphan_begins (fresh : s.track.orphanRun = false) (tag : Option Nat) (reason : OrphanReason) :
    makeOrphan tag reason s = (raiseCond .unexpectedPages (.orphan tag reason) s).setOrphanRun true :=
  if_neg (ne_true_of_eq_false fresh)

theorem makeOrphan_table (tag : Option Nat) (reason : OrphanReason) (s : State) :
    (makeOrphan tag reason s).table = s.table := by
  unfold makeOrphan
  split
  · rfl
  · exact raiseCond_same _ _ s .table (by decide)

theorem makeOrphan_ref (tag : Option Nat) (reason : OrphanReason) (s : State) :
    (makeOrphan tag reason s).track.ref = s.track.ref := by
  unfold makeOrphan
  split
  · rfl
  · have track : (raiseCond .unexpectedPages (.orphan tag reason) s).track = s.track :=
      raiseCond_same _ _ s .track (by decide)
    show (raiseCond .unexpectedPages (.orphan tag reason) s).track.ref = s.track.ref
    rw [track]

theorem raiseCond_mem (k : Cond) (x : CondParam) (s : State) :
    { cond := k, param := x } ∈ ((raiseCond k x s).port k.port).conds := by
  unfold raiseCond
  dsimp only
  split
  · next pending =>
    rw [State.setPort_port_self]
    obtain ⟨y, mem, same⟩ := List.any_eq_true.1 pending
    have cond : y.cond = k := by simpa using same
    exact List.mem_map.2 ⟨y, mem, by rw [if_pos cond, ← cond]⟩
  · rw [State.port_setEv, State.setPort_port_self]
    exact mem_insertCond.2 (.inl rfl)

theorem makeOrphan_pending (fresh : s.track.orphanRun = false) (tag : Option Nat) (reason : OrphanReason) :
    { cond := .unexpectedPages, param := .orphan tag reason } ∈ ((makeOrphan tag reason s).port .job).conds := by
  rw [makeOrphan_begins fresh]
  exact raiseCond_mem .unexpectedPages (.orphan tag reason) s

theorem makeOrphan_track (fresh : s.track.orphanRun = false) (tag : Option Nat) (reason : OrphanReason) :
    (makeOrphan tag reason s).track = { s.track with orphanRun := true } := by
  rw [makeOrphan_begins fresh]
  exact congrArg (fun x : Tracking => { x with orphanRun := true })
    (raiseCond_same .unexpectedPages (.orphan tag reason) s .track (by decide))

/-! ### Assignment -/

/-- A sheet assigned to a set with a page and a disposition (R64). -/
def SheetEntry.assigned (e : SheetEntry) (n : Nat) (page : Option Nat) (d : Disposition) : SheetEntry :=
  { e with
    set := some n
    page := page
    disposition := d }

theorem assignSheet_findSheet {e : SheetEntry} (sheet : s.findSheet id = some e) (n : Nat) (page : Option Nat)
    (d : Disposition) : (assignSheet id n page d s).findSheet id = some (e.assigned n page d) :=
  findSheet_updateSheet _ (fun _ => rfl) sheet

theorem SheetEntry.assigned_waste {e : SheetEntry} (page : e.page = none) (waste : e.disposition = .waste) (n : Nat) :
    e.assigned n none .waste = { e with set := some n } := by
  unfold assigned
  rw [← page, ← waste]

/-- A cause recorded against the set that the new sheet, WASTE, has just been assigned to. -/
structure FaultsRun (id n : Nat) (c : SetCause) (e : SheetEntry) (r : SetRec) (s t : State) : Prop where
  found : t.findSet n = some { r with state := .rejecting, cause := some c, failingStep := none }
  sheet : t.findSheet id = some { e with set := some n }
  ref : t.track.ref = faultRef n s.track.ref

theorem recordCause_faultsRun {c : SetCause} {e : SheetEntry} {r : SetRec} (sheet : s.findSheet id = some e)
    (page : e.page = none) (waste : e.disposition = .waste) (found : s.findSet n = some r) (opens : r.open = true) :
    FaultsRun id n c e r s (recordCause n c none (assignSheet id n none .waste s)) := by
  have assigned := assignSheet_findSheet sheet n none .waste
  rw [SheetEntry.assigned_waste page waste] at assigned
  have found' : (assignSheet id n none .waste s).findSet n = some r := found
  have taken : recordCause n c none (assignSheet id n none .waste s) = causeTaken n c none (assignSheet id n none .waste s) :=
    recordCause_sheet found' opens assigned rfl
  rw [taken]
  refine ⟨causeTaken_found found' opens, ?_, ?_⟩
  · rw [causeTaken_findSheet, assigned, Option.map_some, SheetEntry.turned_waste (e := { e with set := some n }) waste]
  · rw [causeTaken_track]
    rfl

theorem faultRef_reading (n tag colour : Nat) : faultRef n (.reading n tag colour) = .faultedRun n tag colour :=
  if_pos rfl

theorem SetRec.open_active {r : SetRec} (active : r.state = .active) (good : r.cause = none) : r.open = true := by
  unfold SetRec.open
  rw [active, good]
  rfl

end Sys2Proof.Machine
end

section
/-! PROOFS. Each line of Table 4-3: what a new sheet's mark does (R74 to R84). -/

namespace Sys2Proof.Machine
variable {s t u v : State} {n id : Nat} {m : Mark} {r : SetRec} {e : SheetEntry}

/-! ### A page of the reading set (R78) -/

theorem matchReading_outOfSequence (found : s.findSet n = some r) (wrong : m.page ≠ r.pagesRead + 1) :
    matchReading id n m s = recordCause n .outOfSequence none (assignSheet id n none .waste s) := by
  unfold matchReading
  rw [found]
  exact if_pos wrong

theorem matchReading_shortSet (found : s.findSet n = some r) (next : m.page = r.pagesRead + 1) (last : m.kind = .last)
    (early : m.page < r.pages) :
    matchReading id n m s = (recordCause n .shortSet none (assignSheet id n none .waste s)).setRef .none := by
  unfold matchReading
  rw [found]
  exact (if_neg (not_not_intro next)).trans (if_pos ⟨last, early⟩)

theorem matchReading_missingLast (found : s.findSet n = some r) (next : m.page = r.pagesRead + 1) (page : m.kind = .page)
    (final : m.page = r.pages) :
    matchReading id n m s = recordCause n .missingLast none (assignSheet id n none .waste s) := by
  unfold matchReading
  rw [found]
  exact (if_neg (not_not_intro next)).trans ((if_neg fun h => by rw [page] at h; cases h.1).trans (if_pos ⟨page, final⟩))

theorem matchReading_accepts (found : s.findSet n = some r) (next : m.page = r.pagesRead + 1)
    (fits : (m.kind = .page ∧ m.page < r.pages) ∨ (m.kind = .last ∧ m.page = r.pages)) :
    matchReading id n m s = acceptPage id n m s := by
  have inTime : ¬ (m.kind = .last ∧ m.page < r.pages) := fun h => by
    rcases fits with ⟨page, _⟩ | ⟨_, final⟩
    · rw [page] at h
      cases h.1
    · omega
  have ended : ¬ (m.kind = .page ∧ m.page = r.pages) := fun h => by
    rcases fits with ⟨_, more⟩ | ⟨last, _⟩
    · omega
    · rw [last] at h
      cases h.1
  unfold matchReading
  rw [found]
  exact (if_neg (not_not_intro next)).trans ((if_neg inTime).trans (if_neg ended))

/-- A record with one page more read (R78). -/
def SetRec.counted (r : SetRec) : SetRec := { r with pagesRead := r.pagesRead + 1 }

/-- The records after a page of set n was counted and its sheet sent to the accumulator. -/
theorem counted_onlySet (id n : Nat) (m : Mark) (s : State) : OnlySet n s (assignSheet id n (some m.page) .accumulate
    (updateSet n SetRec.counted s)) :=
  (OnlySet.updateSet (f := SetRec.counted) (fun _ => rfl) s).trans (.of_table rfl)

/-- A record whose LAST page is read (R78). -/
def SetRec.readOut (r : SetRec) : SetRec := { r with readComplete := true }

theorem acceptPage_page (page : m.kind = .page) (id n : Nat) (s : State) :
    acceptPage id n m s = assignSheet id n (some m.page) .accumulate (updateSet n SetRec.counted s) := by
  unfold acceptPage
  rw [page]
  rfl

theorem acceptPage_last (last : m.kind = .last) (id n : Nat) (s : State) :
    acceptPage id n m s = (updateSet n SetRec.readOut
      (assignSheet id n (some m.page) .accumulate (updateSet n SetRec.counted s))).setRef .none := by
  unfold acceptPage
  rw [last]
  rfl

theorem acceptPage_onlySet (id n : Nat) (m : Mark) (s : State) : OnlySet n s (acceptPage id n m s) := by
  unfold acceptPage
  dsimp only
  split
  · exact ((counted_onlySet id n m s).trans (.updateSet (f := SetRec.readOut) (fun _ => rfl) _)).trans (.of_table rfl)
  · exact counted_onlySet id n m s

/-- A page accepted for set n: its sheet goes to the accumulator, and a LAST page completes the read (R78). -/
structure Accepted (id n : Nat) (m : Mark) (e : SheetEntry) (r : SetRec) (s t : State) : Prop where
  sheet : t.findSheet id = some (e.assigned n (some m.page) .accumulate)
  orphanRun : t.track.orphanRun = s.track.orphanRun
  onlySet : OnlySet n s t
  page : m.kind = .page → t.track.ref = s.track.ref ∧ t.findSet n = some { r with pagesRead := r.pagesRead + 1 }
  last : m.kind = .last → t.track.ref = .none ∧
    t.findSet n = some { r with pagesRead := r.pagesRead + 1, readComplete := true }

theorem acceptPage_accepted (sheet : s.findSheet id = some e) (found : s.findSet n = some r)
    (kind : m.kind = .page ∨ m.kind = .last) : Accepted id n m e r s (acceptPage id n m s) := by
  have assigned := assignSheet_findSheet (s := updateSet n SetRec.counted s) sheet n (some m.page) .accumulate
  have counted : (assignSheet id n (some m.page) .accumulate (updateSet n SetRec.counted s)).findSet n = some r.counted :=
    findSet_updateSet_self SetRec.counted (fun _ => rfl) found
  have only := acceptPage_onlySet id n m s
  rcases kind with page | last
  · rw [acceptPage_page page] at only ⊢
    exact ⟨assigned, rfl, only, fun _ => ⟨rfl, counted⟩, fun last => absurd (page.symm.trans last) (by simp)⟩
  · rw [acceptPage_last last] at only ⊢
    refine ⟨assigned, rfl, only, fun page => absurd (page.symm.trans last) (by simp), fun _ => ⟨rfl, ?_⟩⟩
    exact findSet_updateSet_self SetRec.readOut (fun _ => rfl) counted

theorem matchReading_onlySet (id n : Nat) (m : Mark) (s : State) : OnlySet n s (matchReading id n m s) := by
  have assigned : OnlySet n s (assignSheet id n none .waste s) := .of_table rfl
  unfold matchReading
  split
  · exact .of_table rfl
  · split
    · exact assigned.trans recordCause_onlySet
    · split
      · exact (assigned.trans recordCause_onlySet).trans (.of_table rfl)
      · split
        · exact assigned.trans recordCause_onlySet
        · exact acceptPage_onlySet id n m s

/-! ### A page met with no reading set (R81) -/

theorem matchStart_notFirst (page : m.page ≠ 1) (id : Nat) (s : State) :
    matchStart id m s = makeOrphan (some m.tag) .notFirst s := if_pos page

theorem matchStart_first (page : m.page = 1) (id : Nat) (s : State) :
    matchStart id m s = matchFirst id m (s.setOrphanRun false) := if_neg (not_not_intro page)

theorem matchFirst_unknown (tagged : s.findTag m.tag = none) :
    matchFirst id m s = makeOrphan (some m.tag) .unknown s := by
  unfold matchFirst
  rw [tagged]

theorem matchFirst_wrongJob (tagged : s.findTag m.tag = some r) (colour : r.colour ≠ m.colour) :
    matchFirst id m s = makeOrphan (some m.tag) .wrongJob s := by
  unfold matchFirst
  rw [tagged]
  exact if_pos colour

theorem matchFirst_cancelled (tagged : s.findTag m.tag = some r) (colour : r.colour = m.colour)
    (state : r.state = .cancelled) : matchFirst id m s = makeOrphan (some m.tag) .cancelled s := by
  unfold matchFirst
  rw [tagged]
  dsimp only
  rw [if_neg (not_not_intro colour), state]

theorem matchFirst_pending (tagged : s.findTag m.tag = some r) (colour : r.colour = m.colour)
    (state : r.state = .pending) : matchFirst id m s = matchReading id r.number m (startSet r s) := by
  unfold matchFirst
  rw [tagged]
  dsimp only
  rw [if_neg (not_not_intro colour), state]

theorem matchFirst_alreadyRun (tagged : s.findTag m.tag = some r) (colour : r.colour = m.colour)
    (state : r.state ≠ .cancelled ∧ r.state ≠ .pending) :
    matchFirst id m s = makeOrphan (some m.tag) .alreadyRun s := by
  unfold matchFirst
  rw [tagged]
  dsimp only
  rw [if_neg (not_not_intro colour)]
  split
  · next h => exact absurd h state.1
  · next h => exact absurd h state.2
  · rfl

/-- A record as its page 1 starts it (R81). -/
def SetRec.started (r : SetRec) : SetRec :=
  { r with
    state := .active
    pagesRead := 0 }

theorem startSet_found (found : s.findSet r.number = some r) : (startSet r s).findSet r.number = some r.started :=
  findSet_updateSet_self (fun r => r.started) (fun _ => rfl) found

theorem startSet_onlySet (r : SetRec) (s : State) : OnlySet r.number s (startSet r s) :=
  (OnlySet.updateSet (f := SetRec.started) (fun _ => rfl) s).trans (.of_table rfl)

/-- Page 1 of a PENDING set with the page count for it starts the set and is accepted (R81). -/
theorem matchStart_starts (found : s.findSet r.number = some r) (tagged : s.findTag m.tag = some r) (page : m.page = 1)
    (colour : r.colour = m.colour) (pending : r.state = .pending)
    (fits : (m.kind = .page ∧ 1 < r.pages) ∨ (m.kind = .last ∧ r.pages = 1)) :
    matchStart id m s = acceptPage id r.number m (startSet r (s.setOrphanRun false)) := by
  rw [matchStart_first page, matchFirst_pending (s := s.setOrphanRun false) tagged colour pending]
  refine matchReading_accepts (startSet_found (s := s.setOrphanRun false) found) page ?_
  rcases fits with ⟨kind, more⟩ | ⟨kind, one⟩
  · exact .inl ⟨kind, by rw [page]; exact more⟩
  · exact .inr ⟨kind, by rw [page]; exact one.symm⟩

/-- A record that is not PENDING is touched by no page met with no reading set. -/
theorem matchStart_findSet (table : TableOk s.table) (found : s.findSet n = some r) (begun : r.state ≠ .pending)
    (id : Nat) (m : Mark) : (matchStart id m s).findSet n = some r := by
  have orphan : ∀ tag reason v, v.table = s.table → (makeOrphan tag reason v).findSet n = some r :=
    fun tag reason v same => by rw [findSet_of_table ((makeOrphan_table tag reason v).trans same), found]
  by_cases page : m.page = 1
  · rw [matchStart_first page]
    unfold matchFirst
    split
    · exact orphan _ _ _ rfl
    · next x tagged =>
      split
      · exact orphan _ _ _ rfl
      · split
        · exact orphan _ _ _ rfl
        · next pending =>
          have found' : s.findSet x.number = some x := findSet_of_findTag table tagged
          have other : n ≠ x.number := fun same => by
            rw [← same, found] at found'
            exact begun (by rw [Option.some.inj found']; exact pending)
          have only := (startSet_onlySet x (s.setOrphanRun false)).trans (matchReading_onlySet id x.number m _)
          rw [only.findSet_other other]
          exact found
        · exact orphan _ _ _ rfl
  · rw [matchStart_notFirst page]
    exact orphan _ _ _ rfl

theorem matchStart_ref (page : m.page ≠ 1) (id : Nat) (s : State) : (matchStart id m s).track.ref = s.track.ref := by
  rw [matchStart_notFirst page]
  exact makeOrphan_ref _ _ s

/-! ### A page by the reading set reference -/

theorem matchEntry_page {d : Decoded} (mark : d.mark = some m) (kind : m.kind = .page ∨ m.kind = .last) (id : Nat)
    (s : State) : matchEntry id d s = matchPage id m s := by
  unfold matchEntry
  rw [mark]
  dsimp only
  rcases kind with kind | kind <;> rw [kind]

section
variable {tag colour : Nat}

theorem matchPage_none (ref : s.track.ref = .none) : matchPage id m s = matchStart id m s := by
  unfold matchPage
  rw [ref]

theorem matchPage_reading (ref : s.track.ref = .reading n tag colour) (same : m.tag = tag ∧ m.colour = colour) :
    matchPage id m s = matchReading id n m s := by
  unfold matchPage
  rw [ref]
  exact if_pos same

theorem matchPage_other (ref : s.track.ref = .reading n tag colour) (other : m.tag ≠ tag ∨ m.colour ≠ colour) :
    matchPage id m s = matchStart id m ((recordCause n .shortSet none s).setRef .none) := by
  unfold matchPage
  rw [ref]
  exact if_neg (by rintro ⟨h, k⟩; rcases other with o | o; exacts [o h, o k])

theorem matchPage_run (ref : s.track.ref = .faultedRun n tag colour) (same : m.tag = tag ∧ m.colour = colour) :
    matchPage id m s = matchRun id n m s := by
  unfold matchPage
  rw [ref]
  exact if_pos same

theorem assignToRun_rejecting (rejecting : s.setState n = some .rejecting) :
    assignToRun id n s = assignSheet id n none .waste s := if_pos rejecting

theorem matchRun_page (rejecting : s.setState n = some .rejecting) (page : m.kind = .page) :
    matchRun id n m s = assignSheet id n none .waste s := by
  unfold matchRun
  rw [assignToRun_rejecting rejecting]
  dsimp only
  rw [page]

theorem matchRun_last (rejecting : s.setState n = some .rejecting) (last : m.kind = .last) :
    matchRun id n m s = (assignSheet id n none .waste s).setRef .none := by
  unfold matchRun
  rw [assignToRun_rejecting rejecting]
  dsimp only
  rw [last]

/-- A page of the reading set that is out of order, too early a LAST, or a last page that is no LAST (R78, R84). -/
theorem matchReading_faults {cause : SetCause} (ref : s.track.ref = .reading n tag colour) (sheet : s.findSheet id = some e)
    (bare : e.page = none) (waste : e.disposition = .waste) (found : s.findSet n = some r) (active : r.state = .active)
    (good : r.cause = none)
    (wrong : (m.page ≠ r.pagesRead + 1 ∧ cause = SetCause.outOfSequence) ∨
      (m.page = r.pagesRead + 1 ∧ m.kind = .last ∧ m.page < r.pages ∧ cause = .shortSet) ∨
      (m.page = r.pagesRead + 1 ∧ m.kind = .page ∧ m.page = r.pages ∧ cause = .missingLast)) :
    (matchReading id n m s).findSet n = some { r with state := .rejecting, cause := some cause, failingStep := none } ∧
      (matchReading id n m s).findSheet id = some { e with set := some n } ∧
      (matchReading id n m s).track.ref = if cause = .shortSet then .none else .faultedRun n tag colour := by
  have faults : ∀ c, FaultsRun id n c e r s (recordCause n c none (assignSheet id n none .waste s)) := fun c =>
    recordCause_faultsRun sheet bare waste found (SetRec.open_active active good)
  have run : ∀ c, (recordCause n c none (assignSheet id n none .waste s)).track.ref = .faultedRun n tag colour :=
    fun c => by rw [(faults c).ref, ref, faultRef_reading]
  rcases wrong with ⟨page, rfl⟩ | ⟨page, last, early, rfl⟩ | ⟨page, kind, final, rfl⟩
  · rw [matchReading_outOfSequence found page]
    exact ⟨(faults _).found, (faults _).sheet, run _⟩
  · rw [matchReading_shortSet found page last early]
    exact ⟨(faults .shortSet).found, (faults .shortSet).sheet, rfl⟩
  · rw [matchReading_missingLast found page kind final]
    exact ⟨(faults _).found, (faults _).sheet, run _⟩

/-- A page of another set: the reading set is short, and the page is met with no reading set (R80). -/
theorem matchPage_shortens (table : TableOk s.table) (ref : s.track.ref = .reading n tag colour)
    (other : m.tag ≠ tag ∨ m.colour ≠ colour) (sheet : s.findSheet id = some e) (unassigned : e.set = none)
    (waste : e.disposition = .waste) (found : s.findSet n = some r) (active : r.state = .active) (good : r.cause = none) :
    (∃ r', (matchPage id m s).findSet n = some r' ∧ r'.cause = some .shortSet) ∧
      (m.page ≠ 1 → (matchPage id m s).track.ref = .none) ∧
      ∀ q, m.page = 1 → s.findTag m.tag = some q → q.colour = m.colour → q.state = .pending → m.kind = .page →
        1 < q.pages →
        (matchPage id m s).track.ref = .reading q.number q.tag q.colour ∧
          (matchPage id m s).findSet q.number = some { q with state := .active, pagesRead := 1 } := by
  obtain ⟨⟨r', found', cause, begun⟩, kept⟩ := recordCause_fails (id := id) (c := .shortSet) (i := none) found
    (SetRec.open_active active good)
  have only : OnlySet n s ((recordCause n .shortSet none s).setRef .none) := recordCause_onlySet.trans (.of_table rfl)
  have sheet' : ((recordCause n .shortSet none s).setRef .none).findSheet id = some e := kept e sheet unassigned waste
  have foundShort : ((recordCause n .shortSet none s).setRef .none).findSet n = some r' := found'
  rw [matchPage_other ref other]
  have ref' : ((recordCause n .shortSet none s).setRef .none).track.ref = .none := rfl
  generalize (recordCause n .shortSet none s).setRef .none = v at only sheet' foundShort ref'
  have table' := only.tableOk table
  refine ⟨⟨r', matchStart_findSet table' foundShort begun id m, cause⟩, fun page => ?_,
    fun q page tagged colour' pending kind more => ?_⟩
  · rw [matchStart_ref page, ref']
  · have apart : q.number ≠ n := fun same => by
      have here := findSet_of_findTag table tagged
      rw [same, found] at here
      rw [← Option.some.inj here, active] at pending
      cases pending
    have tagged' : v.findTag m.tag = some q := by
      obtain ⟨f, -, others, lookup⟩ := only.findTag m.tag
      rw [lookup, tagged, Option.map_some, others q apart]
    have there := findSet_of_findTag table' tagged'
    rw [matchStart_starts there tagged' page colour' pending (.inl ⟨kind, more⟩)]
    exact (acceptPage_accepted (s := startSet q (v.setOrphanRun false)) sheet' (startSet_found there) (.inl kind)).page kind

end

/-! ### The other marks (R75 to R77) -/

theorem matchEntry_unread {d : Decoded} (mark : d.mark = none) (id : Nat) (s : State) :
    matchEntry id d s = matchUnread id s := by
  unfold matchEntry
  rw [mark]

theorem matchEntry_banner {d : Decoded} (mark : d.mark = some m) (kind : m.kind = .banner) (id : Nat) (s : State) :
    matchEntry id d s = matchBanner s := by
  unfold matchEntry
  rw [mark]
  dsimp only
  rw [kind]

theorem matchEntry_filler {d : Decoded} (mark : d.mark = some m) (kind : m.kind = .filler) (id : Nat) (s : State) :
    matchEntry id d s = s := by
  unfold matchEntry
  rw [mark]
  dsimp only
  rw [kind]

section
variable {tag colour : Nat}

theorem faultReading_reading (ref : s.track.ref = .reading n tag colour) (c : SetCause) :
    faultReading c s = recordCause n c none s := by
  unfold faultReading
  rw [ref]

theorem recordCause_findSheet {c : SetCause} (sheet : s.findSheet id = some e) (unassigned : e.set = none)
    (waste : e.disposition = .waste) (n : Nat) : (recordCause n c none s).findSheet id = some e := by
  by_cases opens : ∃ r, s.findSet n = some r ∧ r.open = true
  · obtain ⟨r, found, opens⟩ := opens
    exact (recordCause_fails found opens).2 e sheet unassigned waste
  · rw [recordCause_closed c none fun r found => Bool.eq_false_of_not_eq_true fun yes => opens ⟨r, found, yes⟩]
    exact sheet

theorem faultReading_findSheet {c : SetCause} (sheet : s.findSheet id = some e) (unassigned : e.set = none)
    (waste : e.disposition = .waste) : (faultReading c s).findSheet id = some e := by
  unfold faultReading
  split
  · exact recordCause_findSheet sheet unassigned waste _
  · exact sheet

theorem matchUnread_reading (ref : s.track.ref = .reading n tag colour) :
    matchUnread id s = recordCause n .unreadPage none (assignSheet id n none .waste s) := by
  unfold matchUnread
  rw [ref]

theorem matchUnread_run (ref : s.track.ref = .faultedRun n tag colour) (rejecting : s.setState n = some .rejecting) :
    matchUnread id s = assignSheet id n none .waste s := by
  unfold matchUnread
  rw [ref]
  exact assignToRun_rejecting rejecting

theorem matchUnread_none (ref : s.track.ref = .none) : matchUnread id s = makeOrphan none .unread s := by
  unfold matchUnread
  rw [ref]

end

/-- Settles O45, line by line of Table 4-3. -/
theorem sheetsAreMatchedToSets : Obligations.SheetsAreMatchedToSets := by
  unfold Obligations.SheetsAreMatchedToSets
  rintro id e d s t table sheet unassigned bare waste rfl
  have assigned : ∀ n, (assignSheet id n none .waste s).findSheet id = some { e with set := some n } := fun n => by
    rw [assignSheet_findSheet sheet, SheetEntry.assigned_waste bare waste]
  refine ⟨fun m mark kind => matchEntry_filler mark kind id s, fun m mark kind => ?banner, fun mark => ?unread,
    fun m mark kind => ?pages, fun tag reason => ⟨fun running => makeOrphan_inRun running tag reason, fun fresh => ?_⟩⟩
  case banner =>
    rw [matchEntry_banner mark kind]
    refine ⟨rfl, rfl, faultReading_findSheet (c := .shortSet) sheet unassigned waste,
      fun n tag colour r ref found active good => ?_⟩
    obtain ⟨⟨r', found', cause, -⟩, -⟩ := recordCause_fails (id := id) (c := .shortSet) (i := none) found
      (SetRec.open_active active good)
    rw [← faultReading_reading ref] at found'
    exact ⟨r', found', cause⟩
  case unread =>
    rw [matchEntry_unread mark]
    refine ⟨fun n tag colour r ref found active good => ?_, fun n tag colour ref rejecting => ?_, matchUnread_none⟩
    · rw [matchUnread_reading ref]
      have faults := recordCause_faultsRun (c := .unreadPage) sheet bare waste found (SetRec.open_active active good)
      exact ⟨faults.found, faults.sheet, by rw [faults.ref, ref, faultRef_reading]⟩
    · rw [matchUnread_run ref rejecting]
      exact ⟨assigned n, rfl⟩
  case pages =>
    rw [matchEntry_page mark kind]
    refine ⟨fun ref => ?_, fun n tag colour r ref found active good => ⟨fun cause ownTag ownColour wrong => ?_,
      fun ownTag ownColour next fits => ?_, fun other => ?_⟩, fun n tag colour ref ownTag ownColour rejecting => ?_⟩
    · rw [matchPage_none ref]
      refine ⟨fun later => matchStart_notFirst later id s, fun page unknown => ?_, fun r page tagged => ?_⟩
      · rw [matchStart_first page]
        exact matchFirst_unknown (s := s.setOrphanRun false) unknown
      · rw [matchStart_first page]
        refine ⟨matchFirst_wrongJob (s := s.setOrphanRun false) tagged,
          matchFirst_cancelled (s := s.setOrphanRun false) tagged,
          fun colour notCancelled notPending =>
            matchFirst_alreadyRun (s := s.setOrphanRun false) tagged colour ⟨notCancelled, notPending⟩,
          fun colour pending fits => ?_⟩
        have found := findSet_of_findTag table tagged
        rw [← matchStart_first page, matchStart_starts found tagged page colour pending fits]
        have accepted := acceptPage_accepted (m := m) (s := startSet r (s.setOrphanRun false)) sheet
          (startSet_found (s := s.setOrphanRun false) found) kind
        refine ⟨?_, accepted.orphanRun, accepted.page, accepted.last⟩
        rw [accepted.sheet, page]
        rfl
    · rw [matchPage_reading ref ⟨ownTag, ownColour⟩]
      exact matchReading_faults ref sheet bare waste found active good wrong
    · rw [matchPage_reading ref ⟨ownTag, ownColour⟩, matchReading_accepts found next fits]
      have accepted := acceptPage_accepted sheet found kind
      exact ⟨accepted.sheet, accepted.page, accepted.last⟩
    · exact matchPage_shortens table ref other sheet unassigned waste found active good
    · rw [matchPage_run ref ⟨ownTag, ownColour⟩]
      rcases kind with page | last
      · rw [matchRun_page rejecting page]
        exact ⟨assigned n, rfl, fun _ => rfl, fun last => absurd (page.symm.trans last) (by simp)⟩
      · rw [matchRun_last rejecting last]
        exact ⟨assigned n, rfl, fun page => absurd (page.symm.trans last) (by simp), fun _ => rfl⟩
  · refine ⟨makeOrphan_track fresh tag reason, makeOrphan_pending fresh tag reason, ?_⟩
    rw [makeOrphan_begins fresh]
    exact (raiseCond_same _ _ s).comp (setTrack_same _) (by decide) (by decide)

end Sys2Proof.Machine
end

section
/-! PROOFS. The first row of a 1-UP web, from its bar to the Transit List and the Firing Queue (R64 to R66, R92 to R94). -/

namespace Sys2Proof.Machine
variable {s t u v : State} {id : Nat} {e : SheetEntry} {row : Pos}

/-! ### A list of one entry -/

theorem findSheet_single (list : s.track.list = [e]) : s.findSheet e.id = some e := by
  unfold State.findSheet
  rw [list, List.find?_cons_of_pos (by simp)]

theorem beforeGate_single (list : s.track.list = [e]) : beforeGate s = if e.pastGate then [] else [e.id] := by
  unfold beforeGate
  rw [list]
  cases past : e.pastGate <;> simp [past]

theorem retireAtOnce_inTime (found : s.findSheet id = some e) (gate : wasteOver s e = false)
    (arrival : arrivalOver s e = false) : retireAtOnce id s = s := by
  unfold retireAtOnce
  rw [found]
  dsimp only
  rw [if_neg (ne_true_of_eq_false gate), if_neg (ne_true_of_eq_false arrival)]

/-! ### The row's knife firing (R92) -/

/-- The KNIFE entry of a row. -/
def knifeFiring (s : State) (row : Pos) : Firing :=
  { actuator := .knife row, target := knifeTarget s row, firePoint := firePointOf s (.knife row) (knifeTarget s row) }

theorem requestKnife_first (empty : s.firing.queue = []) (future : ahead s.web.position (knifeFiring s row).firePoint = true) :
    requestKnife row s = s.setQueue [knifeFiring s row] := by
  have none : standing s (.knife row) (knifeTarget s row) = none := by
    unfold standing
    rw [empty]
    rfl
  unfold requestKnife
  dsimp only
  rw [none]
  dsimp only
  rw [makeFiring_ahead _ (by rw [empty]; exact Nat.zero_lt_succ _) future]
  unfold joinQueue
  rw [empty]
  rfl

/-! ### The plan's extension over the one entry (R94) -/

/-- A state with one entry, made at the event, and one knife firing queued, the gate planned at WASTE. -/
structure OneMade (e : SheetEntry) (knife : Firing) (s : State) : Prop where
  list : s.track.list = [e]
  made : s.ev.made = [e.id]
  queue : s.firing.queue = [knife]
  planned : s.firing.planned = .waste
  bar : ∃ row, knife.actuator = .knife row

theorem extendPlan_one {knife : Firing} (one : OneMade e knife s) :
    extendPlan s = walk none (if e.pastGate then [] else [e.id]) .waste s.noneMade := by
  have new : (beforeGate s).filter (fun id => s.ev.made.contains id) = if e.pastGate then [] else [e.id] := by
    rw [beforeGate_single one.list, one.made]
    cases e.pastGate <;> simp
  have old : (beforeGate s).filter (fun id => !(s.ev.made.contains id)) = [] := by
    rw [beforeGate_single one.list, one.made]
    cases e.pastGate <;> simp
  unfold extendPlan
  dsimp only
  rw [new, old, one.planned]
  rfl

/-- The scheduler with its plan at a position. -/
def Scheduler.plannedAt (f : Scheduler) (d : Disposition) : Scheduler := { f with planned := d }

theorem extendPlan_waste {knife : Firing} (one : OneMade e knife s) (waste : e.disposition = .waste) :
    extendPlan s = s.noneMade.setFiring (s.firing.plannedAt .waste) := by
  rw [extendPlan_one one]
  refine walk_agreeing _ none nofun fun id mem x found => ?_
  have inList : x ∈ [e] := one.list ▸ (findSheet_mem (s := s) found).1
  rw [List.mem_singleton.1 inList]
  exact waste

/-- The GATE entry of a sheet to ACCUMULATE. -/
def gateFiring (s : State) (e : SheetEntry) : Firing :=
  { actuator := .gate e.id .accumulate, target := gateTarget s e,
    firePoint := firePointOf s (.gate e.id .accumulate) (gateTarget s e) }

theorem walkFiring_makes {want running : Disposition} (free : standing s (.gate e.id want) (gateTarget s e) = none)
    (room : s.firing.queue.length < 32)
    (future : ahead s.web.position (firePointOf s (.gate e.id want) (gateTarget s e)) = true) :
    walkFiring e want running s = (joinQueue
      { actuator := .gate e.id want, target := gateTarget s e,
        firePoint := firePointOf s (.gate e.id want) (gateTarget s e) } s, want, false) := by
  unfold walkFiring
  dsimp only
  rw [free]
  dsimp only
  rw [makeFiring_ahead running room future]
  rfl

theorem extendPlan_accumulate {knife : Firing} (one : OneMade e knife s) (open' : e.pastGate = false)
    (accumulate : e.disposition = .accumulate) (future : ahead s.web.position (gateFiring s e).firePoint = true) :
    extendPlan s = (joinQueue (gateFiring s e) s.noneMade).setFiring
      ((joinQueue (gateFiring s e) s.noneMade).firing.plannedAt .accumulate) := by
  have free : standing s.noneMade (.gate e.id .accumulate) (gateTarget s.noneMade e) = none := by
    obtain ⟨row, bar⟩ := one.bar
    show s.firing.queue.find? _ = none
    rw [one.queue, List.find?_singleton, bar]
    rfl
  have entry : walkEntry none e.id .waste s.noneMade = (joinQueue (gateFiring s e) s.noneMade, .accumulate) := by
    have made := walkFiring_makes (running := .waste) free (by rw [show s.noneMade.firing.queue = [knife] from one.queue]; simp)
      future
    unfold walkEntry
    rw [findSheet_single (s := s.noneMade) one.list]
    dsimp only [Option.bind_none]
    rw [if_neg (by rw [accumulate]; simp), accumulate, made]
    rfl
  rw [extendPlan_one one, open']
  show walk none [e.id] .waste s.noneMade = _
  unfold walk
  rw [entry]
  rfl

/-! ### The row after its sheet was matched -/

theorem setHold_jobConds (k : HoldCause) (b : Bool) (s : State) :
    ((setHold k b s).port .job).conds = (s.port .job).conds := by
  have other : ∀ x v, ((raiseCond .holdChanged x v).port .job).conds = (v.port .job).conds := fun x v => by
    unfold raiseCond
    dsimp only
    split
    · exact congrArg PortState.conds (State.setPort_port_of_ne (by decide) v _)
    · rw [State.port_setEv]
      exact congrArg PortState.conds (State.setPort_port_of_ne (by decide) v _)
  unfold setHold
  split
  · rfl
  · dsimp only
    split
    · rw [other]
      rfl
    · rfl
    · rfl

theorem evalTrackFull_jobConds (s : State) : ((evalTrackFull s).port .job).conds = (s.port .job).conds := by
  unfold evalTrackFull
  split
  · exact setHold_jobConds _ _ s
  · split
    · exact setHold_jobConds _ _ s
    · rfl

/-- What the row's one sheet, matched and not come too late, leaves to the rest of the row's entering. -/
structure Entered (e : SheetEntry) (s : State) : Prop where
  list : s.track.list = [e]
  made : s.ev = { Event.none with raised := s.ev.raised, made := [e.id] }
  empty : s.firing.queue = []
  planned : s.firing.planned = .waste

/-- The rest of a row's entering after its sheets are entered (R66 steps 4 to 6). -/
def rowFinished (row : Pos) (s : State) : State := evalTrackFull (planRow (requestKnife row s))

/-- What the rest of the row's entering leaves as it was. -/
structure Finishes (s t : State) : Prop where
  same : SameExcept [.links, .firing, .line, .ev] s t
  settled : Settled t
  conds : (t.port .job).conds = (s.port .job).conds

theorem evalTrackFull_finishes (same : SameExcept [.firing, .ev] s t) (settled : Settled t) :
    Finishes s (evalTrackFull t) where
  same := same.comp (evalTrackFull_same t) (by decide) (by decide)
  settled := settled.of_onlyRaised (evalTrackFull_onlyRaised t)
  conds := by
    rw [evalTrackFull_jobConds]
    exact congrArg PortState.conds (congrArg (fun l => l.get .job) (same .links (by decide)))

theorem Entered.oneMade (h : Entered e s) (row : Pos) : OneMade e (knifeFiring s row) (s.setQueue [knifeFiring s row]) where
  list := h.list
  made := by
    show s.ev.made = _
    rw [h.made]
  queue := rfl
  planned := h.planned
  bar := ⟨row, rfl⟩

theorem planRow_extends (h : s.ev.replan = false) : planRow s = extendPlan s := if_neg (ne_true_of_eq_false h)

theorem Entered.settled (h : Entered e s) : Settled s.noneMade := by
  have ev : s.noneMade.ev = { Event.none with raised := s.ev.raised } := by
    show ({ s.ev with made := [] } : Event) = _
    rw [h.made]
    rfl
  exact ⟨by rw [ev]; rfl, by rw [ev]; rfl, by rw [ev]; rfl, by rw [ev]; rfl⟩

theorem rowFinished_waste (h : Entered e s) (waste : e.disposition = .waste)
    (future : ahead s.web.position (knifeFiring s row).firePoint = true) :
    Finishes s (rowFinished row s) ∧ (rowFinished row s).firing.queue = [knifeFiring s row] := by
  have planned : planRow (requestKnife row s) =
      (s.setQueue [knifeFiring s row]).noneMade.setFiring ((s.setQueue [knifeFiring s row]).firing.plannedAt .waste) := by
    rw [requestKnife_first h.empty future, planRow_extends (by show s.ev.replan = false; rw [h.made]; rfl),
      extendPlan_waste (h.oneMade row) waste]
  have same : SameExcept [.firing, .ev] s (planRow (requestKnife row s)) := by
    rw [planned]
    exact ((setFiring_same _).comp (setEv_same _) (n := [.firing, .ev]) (by decide) (by decide)).comp (setFiring_same _)
      (by decide) (by decide)
  have settled : Settled (planRow (requestKnife row s)) := by
    rw [planned]
    exact ⟨h.settled.ended, h.settled.plan, h.settled.dump, h.settled.await⟩
  refine ⟨evalTrackFull_finishes same settled, ?_⟩
  show (evalTrackFull _).firing.queue = _
  rw [evalTrackFull_same _ .firing (by decide), planned]
  rfl

theorem rowFinished_accumulate (h : Entered e s) (open' : e.pastGate = false) (accumulate : e.disposition = .accumulate)
    (future : ahead s.web.position (knifeFiring s row).firePoint = true)
    (gateFuture : ahead s.web.position (gateFiring s e).firePoint = true) :
    Finishes s (rowFinished row s) ∧ (rowFinished row s).firing.planned = .accumulate ∧
      ∀ f, f ∈ (rowFinished row s).firing.queue ↔ f = knifeFiring s row ∨ f = gateFiring s e := by
  have planned : planRow (requestKnife row s) =
      (joinQueue (gateFiring s e) (s.setQueue [knifeFiring s row]).noneMade).setFiring
        ((joinQueue (gateFiring s e) (s.setQueue [knifeFiring s row]).noneMade).firing.plannedAt .accumulate) := by
    rw [requestKnife_first h.empty future, planRow_extends (by show s.ev.replan = false; rw [h.made]; rfl)]
    exact extendPlan_accumulate (h.oneMade row) open' accumulate gateFuture
  have same : SameExcept [.firing, .ev] s (planRow (requestKnife row s)) := by
    rw [planned]
    have noted : SameExcept [.firing, .ev] s (s.setQueue [knifeFiring s row]).noneMade :=
      (setFiring_same _).comp (setEv_same _) (by decide) (by decide)
    exact (noted.comp (setFiring_same _) (n := [.firing, .ev]) (by decide) (by decide)).comp (setFiring_same _)
      (by decide) (by decide)
  have settled : Settled (planRow (requestKnife row s)) := by
    rw [planned]
    exact ⟨h.settled.ended, h.settled.plan, h.settled.dump, h.settled.await⟩
  have firing : (rowFinished row s).firing = (planRow (requestKnife row s)).firing :=
    evalTrackFull_same _ .firing (by decide)
  refine ⟨evalTrackFull_finishes same settled, by rw [firing, planned]; rfl, fun f => ?_⟩
  rw [firing, planned]
  show f ∈ (joinQueue (gateFiring s e) (s.setQueue [knifeFiring s row]).noneMade).firing.queue ↔ _
  rw [mem_joinQueue]
  show f ∈ [knifeFiring s row] ∨ _ ↔ _
  rw [List.mem_singleton]

end Sys2Proof.Machine
end

section
/-! PROOFS. The first row after HUNT on a 1-UP web, each sort of CLEAN mark (R64 to R66, R75, R78, R81, R82). -/

namespace Sys2Proof.Machine
variable {s t u v w q : State} {pos row : Pos} {c : Cells} {m : Mark} {e : SheetEntry}

theorem foldl_countSheet_sheets (xs : List RowSheet) :
    ∀ x : Tally, (xs.foldl countSheet x).sheetsTracked = x.sheetsTracked := by
  induction xs with
  | nil => exact fun _ => rfl
  | cons y ys ih =>
    have one : ∀ x : Tally, (countSheet x y).sheetsTracked = x.sheetsTracked := fun x => by
      unfold countSheet
      split <;> rfl
    exact fun x => (ih _).trans (one x)

/-! ### From the bar to the row -/

/-- A CLEAN mark, decoded. -/
def Decoded.clean (m : Mark) : Decoded := { result := .clean, mark := some m, cause := none }

/-- The one sheet of a 1-UP row with a CLEAN mark. -/
def cleanSheet (m : Mark) : RowSheet := { lane := .left, order := .first, decoded := .clean m }

/-- The state in which the first row's sheets are to be entered: the reader is on the next row and the row is counted. -/
structure RowReady (s w : State) : Prop where
  same : SameExcept [.links, .reader, .line, .ev] s w
  ev : w.ev = { Event.none with raised := w.ev.raised }
  geometry : w.line.geometry = s.line.geometry
  rows : w.line.tally.rowsRead = satInc s.line.tally.rowsRead
  sheets : w.line.tally.sheetsTracked = s.line.tally.sheetsTracked

/-- The first row of a 1-UP web with a CLEAN mark is one sheet, entered at the bar event (R48 to R55). -/
theorem takeBar_firstRow (oneUp : s.table.profile.layout = .oneUp) (hunt : s.reader.state = .hunt)
    (decoded : decodeMark s.table.profile.strict false c = .clean m)
    (isRow : row = minus pos s.table.profile.markOffset)
    (next : passed s.web.position (plus (plus pos s.table.profile.formLength) s.table.profile.tol) = false) :
    ∃ w, RowReady s w ∧ takeBar .left pos c false s.begin = enterRow { row := row, sheets := [cleanSheet m] } w := by
  have table : (lockedOn pos s.begin).table = s.table := lockedOn_table pos s.begin
  have bar : barOf pos c false (lockedOn pos s.begin) = { position := pos, decoded := .clean m } := by
    unfold barOf
    rw [table, decoded]
  have seenSame : SameExcept [.links, .reader, .ev] (lockedOn pos s.begin)
      (barSeen firstRow .left pos c false (lockedOn pos s.begin)) := barSeen_same
  have asked : OnlyRaised s.begin (barSeen firstRow .left pos c false (lockedOn pos s.begin)) :=
    ((OnlyRaised.of_ev rfl).trans (setHold_onlyRaised .readerHunting false (lockOn pos s.begin))).trans barSeen_onlyRaised
  have locked : SameExcept [.links, .reader, .line, .ev] s (lockedOn pos s.begin) :=
    ((setEv_same _).comp (setReader_same _) (n := [.reader, .ev]) (by decide) (by decide)).comp
      (setHold_same _ _ (lockOn pos s.begin)) (by decide) (by decide)
  have lockedLine : (lockedOn pos s.begin).line =
      { s.line with holds := s.line.holds.put .readerHunting false } := setHold_line _ _ _
  have taken : takeBar .left pos c false s.begin = closeRow (firstRow.see .left { position := pos, decoded := .clean m })
      (barSeen firstRow .left pos c false (lockedOn pos s.begin)) := by
    rw [takeBar_hunting (s := s.begin) hunt, matchBar_eq, bar, table, oneUp]
    rfl
  generalize barSeen firstRow .left pos c false (lockedOn pos s.begin) = v at seenSame asked taken
  have earliest := firstRow_earliest .left { position := pos, decoded := .clean m }
  have web : v.web = s.web := (seenSame .web (by decide)).trans (lockedOn_web _ _)
  have table' : v.table = s.table := (seenSame .table (by decide)).trans table
  have line : v.line = { s.line with holds := s.line.holds.put .readerHunting false } :=
    (seenSame .line (by decide)).trans lockedLine
  have rows : decodedRow v (firstRow.see .left { position := pos, decoded := .clean m }) =
      { row := row, sheets := [cleanSheet m] } := by
    unfold decodedRow
    rw [closingRef_of_bar earliest, table', isRow]
    unfold lanesOf
    rw [oneUp]
    rfl
  rw [closeRow_goesOn (by rw [nextMiss_of_bar earliest]; omega)
    (by unfold nextOver; rw [closingRef_of_bar earliest, web, table']; exact next)] at taken
  unfold rowEntered at taken
  rw [rows] at taken
  refine ⟨_, ⟨?_, ?_, ?_, ?_, ?_⟩, taken⟩
  · exact ((locked.comp seenSame (n := [.links, .reader, .line, .ev]) (by decide) (by decide)).comp (setReader_same _)
      (n := [.links, .reader, .line, .ev]) (by decide) (by decide)).comp (setLine_same _) (by decide) (by decide)
  · exact asked
  · show v.line.geometry = _
    rw [line]
  · refine (foldl_countSheet_rows _ _).trans ?_
    show satInc v.line.tally.rowsRead = _
    rw [line]
  · refine (foldl_countSheet_sheets _ _).trans ?_
    show v.line.tally.sheetsTracked = _
    rw [line]

/-! ### The entry -/

theorem RowReady.newEntry (h : RowReady s w) (row : Pos) (m : Mark) : newEntry w row (cleanSheet m) =
    { id := s.track.nextId, row := row, order := .first, result := .clean, mark := some m, set := none, page := none,
      disposition := .waste, gateArrival := plus row s.line.geometry.readerToGate,
      accArrival := plus row s.line.geometry.readerToAcc,
      pastGate := passed s.web.position (plus row s.line.geometry.readerToGate) } := by
  unfold Machine.newEntry gateArrivalOf accArrivalOf mergePosition cleanSheet Decoded.clean
  rw [h.geometry, h.same .track (by decide), h.same .web (by decide)]

/-- The state in which the row's entry, e, has been made and is matched. -/
def entryMade (e : SheetEntry) (w : State) : State := (appendEntry e w).noteMade w.track.nextId

theorem entryMade_track {n : Nat} (list : w.track.list = []) (nextId : w.track.nextId = n) (small : n < 65535) :
    (entryMade e w).track = { w.track with list := [e], nextId := n + 1 } := by
  show ({ w.track with list := w.track.list ++ [e], nextId := (w.track.nextId + 1) % 65536 } : Tracking) = _
  rw [list, nextId, Nat.mod_eq_of_lt (by omega)]
  rfl

theorem enterRow_one (room : w.track.list = []) (row : Pos) (x : RowSheet) :
    enterRow { row := row, sheets := [x] } w = rowFinished row (enterSheet row w x) := by
  unfold enterRow
  rw [if_neg (by rw [room]; exact of_decide_eq_false rfl)]
  rfl

/-- The row's sheet, matched and not come too late, is the one entry. -/
structure OneMatched (e : SheetEntry) (s q : State) : Prop where
  list : q.track.list = [e]
  made : q.ev = { Event.none with raised := q.ev.raised, made := [e.id] }
  firing : q.firing = s.firing
  web : q.web = s.web
  geometry : q.line.geometry = s.line.geometry
  profile : q.table.profile = s.table.profile

theorem OneMatched.entered (h : OneMatched e s q) (empty : s.firing.queue = []) (planned : s.firing.planned = .waste) :
    Entered e (q.withTally Tally.tracked) :=
  ⟨h.list, h.made, by rw [← empty, ← h.firing]; rfl, by rw [← planned, ← h.firing]; rfl⟩

theorem OneMatched.firePoint (h : OneMatched e s q) (a : Actuator) (target : Pos) :
    firePointOf (q.withTally Tally.tracked) a target = firePointOf s a target := firePointOf_congr h.web h.geometry a target

theorem OneMatched.knife (h : OneMatched e s q) (row : Pos) :
    knifeFiring (q.withTally Tally.tracked) row = knifeFiring s row := by
  have target : knifeTarget (q.withTally Tally.tracked) row = knifeTarget s row := by
    unfold knifeTarget
    rw [show (q.withTally Tally.tracked).table.profile = s.table.profile from h.profile,
      show (q.withTally Tally.tracked).line.geometry = s.line.geometry from h.geometry]
  unfold knifeFiring
  rw [target, h.firePoint]

theorem OneMatched.stays (h : OneMatched e s q)
    (gate : e.disposition = .waste → passed s.web.position (plus e.gateArrival s.line.geometry.arrivalTol) = false)
    (arrival : e.disposition = .accumulate → passed s.web.position (plus e.accArrival s.line.geometry.arrivalTol) = false) :
    retireAtOnce e.id q = q := by
  refine retireAtOnce_inTime (findSheet_single h.list) ?_ ?_
  · unfold wasteOver
    rw [h.web, h.geometry]
    cases d : e.disposition with
    | waste => rw [gate d]; rfl
    | accumulate => rfl
  · unfold arrivalOver
    rw [h.web, h.geometry]
    cases d : e.disposition with
    | waste => rfl
    | accumulate => rw [arrival d]; rfl

theorem event_conds_of_settled {rule : State → State} (h : Settled (rule s.begin)) (p : Port) :
    ((event rule s).port p).conds = ((rule s.begin).port p).conds :=
  (flushNotices_conds (settle (rule s.begin)) p).trans (by rw [h.settle_eq])

/-- The row's end at the bar event: what the matched entry left stands, and the firings are those of the row. -/
theorem event_finishes {rule : State → State} (own : rule s.begin = rowFinished row (q.withTally Tally.tracked))
    (ends : Finishes (q.withTally Tally.tracked) (rowFinished row (q.withTally Tally.tracked))) :
    (event rule s).track = q.track ∧ (event rule s).table = q.table ∧
      (event rule s).firing = (rowFinished row (q.withTally Tally.tracked)).firing ∧
      ((event rule s).port .job).conds = (q.port .job).conds := by
  have settled : Settled (rule s.begin) := by
    rw [own]
    exact ends.settled
  have same := event_of_settled settled
  refine ⟨?_, ?_, ?_, ?_⟩
  · rw [same .track (by decide), own]
    exact ends.same .track (by decide)
  · rw [same .table (by decide), own]
    exact ends.same .table (by decide)
  · rw [same .firing (by decide), own]
  · rw [event_conds_of_settled settled, own]
    exact ends.conds

theorem RowReady.matched (h : RowReady s w) (empty : s.track.list = []) (own : e.id = s.track.nextId)
    (small : s.track.nextId < 65535) : OneMatched e s (entryMade e w) where
  list := by rw [entryMade_track (by rw [h.same .track (by decide), empty]) (by rw [h.same .track (by decide)]) small]
  made := by
    show ({ w.ev with made := w.ev.made ++ [w.track.nextId] } : Event) = _
    rw [h.ev, h.same .track (by decide), own]
    rfl
  firing := h.same .firing (by decide)
  web := h.same .web (by decide)
  geometry := h.geometry
  profile := congrArg SetTable.profile (h.same .table (by decide))

/-- The matching of the one entry leaves it the one entry. -/
theorem OneMatched.goesOn {e' : SheetEntry} (h : OneMatched e s u) (list : q.track.list = [e']) (id : e'.id = e.id)
    (asked : OnlyRaised u q) (firing : q.firing = u.firing) (web : q.web = u.web) (line : q.line = u.line)
    (profile : q.table.profile = u.table.profile) : OneMatched e' s q where
  list := list
  made := by
    rw [asked, h.made, id]
  firing := firing.trans h.firing
  web := web.trans h.web
  geometry := (congrArg Supervisor.geometry line).trans h.geometry
  profile := profile.trans h.profile

theorem OneMatched.knifeAhead (h : OneMatched e s q) (future : ahead s.web.position (knifeFiring s row).firePoint = true) :
    ahead (q.withTally Tally.tracked).web.position (knifeFiring (q.withTally Tally.tracked) row).firePoint = true := by
  rw [h.knife row, show (q.withTally Tally.tracked).web = s.web from h.web]
  exact future

/-- A bar event whose row is one entry e, made in w's Transit List, which holds no other. -/
structure FirstRow (pos row : Pos) (c : Cells) (m : Mark) (e : SheetEntry) (s w : State) : Prop where
  ready : RowReady s w
  taken : takeBar .left pos c false s.begin = enterRow { row := row, sheets := [cleanSheet m] } w
  empty : s.track.list = []
  unqueued : s.firing.queue = []
  planned : s.firing.planned = .waste
  small : s.track.nextId < 65535
  made : newEntry w row (cleanSheet m) = e
  own : e.id = s.track.nextId
  waste : e.disposition = .waste
  gate : passed s.web.position (plus e.gateArrival s.line.geometry.arrivalTol) = false
  arrival : passed s.web.position (plus e.accArrival s.line.geometry.arrivalTol) = false
  future : ahead s.web.position (knifeFiring s row).firePoint = true

theorem OneMatched.gateFiring_eq {e' : SheetEntry} (h : OneMatched e' s q) (row : e'.row = e.row)
    (order : e'.order = e.order) (id : e'.id = e.id) : gateFiring (q.withTally Tally.tracked) e' = gateFiring s e := by
  have target : gateTarget (q.withTally Tally.tracked) e' = gateTarget s e := by
    unfold gateTarget gateArrivalOf mergePosition
    rw [row, order, show (q.withTally Tally.tracked).table.profile = s.table.profile from h.profile,
      show (q.withTally Tally.tracked).line.geometry = s.line.geometry from h.geometry]
  unfold gateFiring
  rw [target, id, h.firePoint]

/-- A page 1 that starts its set, as its entry is matched: the list, the reference and the flag (R81). -/
theorem acceptPage_starts_track {r : SetRec} (page : m.kind = .page) (list : u.track.list = [e]) :
    (acceptPage e.id r.number m (startSet r (u.setOrphanRun false))).track =
      { u.track with
        list := [e.assigned r.number (some m.page) .accumulate]
        ref := .reading r.number r.tag r.colour
        orphanRun := false } := by
  have assigned : (u.track.list.map fun x => if x.id = e.id then x.assigned r.number (some m.page) .accumulate else x) =
      [e.assigned r.number (some m.page) .accumulate] := by
    rw [list, List.map_singleton, if_pos rfl]
  rw [acceptPage_page page, ← assigned]
  rfl

theorem acceptPage_starts_same {r : SetRec} (page : m.kind = .page) (u : State) :
    SameExcept [.table, .track] u (acceptPage e.id r.number m (startSet r (u.setOrphanRun false))) ∧
      (acceptPage e.id r.number m (startSet r (u.setOrphanRun false))).table.profile = u.table.profile := by
  have flag : SameExcept [.table, .track] u (u.setOrphanRun false) := (setTrack_same _).mono (by decide)
  have started : SameExcept [.table, .track] (u.setOrphanRun false) (startSet r (u.setOrphanRun false)) :=
    (updateSet_same _ _ _).comp (setTrack_same _) (by decide) (by decide)
  have accepted : ∀ v, SameExcept [.table, .track] v
      (assignSheet e.id r.number (some m.page) .accumulate (updateSet r.number SetRec.counted v)) := fun v =>
    (updateSet_same _ _ v).comp (setList_same _ _) (by decide) (by decide)
  rw [acceptPage_page page]
  exact ⟨(flag.comp started (n := [.table, .track]) (by decide) (by decide)).comp (accepted _) (by decide) (by decide),
    rfl⟩

namespace FirstRow
variable (h : FirstRow pos row c m e s w)
include h

theorem unmatched : OneMatched e s (entryMade e w) := h.ready.matched h.empty h.own h.small

theorem listEmpty : w.track.list = [] := by rw [h.ready.same .track (by decide), h.empty]

theorem track : (entryMade e w).track = { s.track with list := [e], nextId := s.track.nextId + 1 } := by
  rw [entryMade_track h.listEmpty (by rw [h.ready.same .track (by decide)]) h.small, h.ready.same .track (by decide)]

theorem table : (entryMade e w).table = s.table := h.ready.same .table (by decide)

/-- The rule of the event once the entry is matched to q, not come too late. -/
theorem runs {e' : SheetEntry} (is : matchEntry e.id (.clean m) (entryMade e w) = q) (one : OneMatched e' s q)
    (id : e'.id = e.id) (gate : e'.gateArrival = e.gateArrival) (arrival : e'.accArrival = e.accArrival) :
    takeBar .left pos c false s.begin = rowFinished row (q.withTally Tally.tracked) ∧
      Entered e' (q.withTally Tally.tracked) := by
  have nextId : w.track.nextId = e.id := by rw [h.ready.same .track (by decide), h.own]
  have matched : sheetMatched row w (cleanSheet m) = q := by
    unfold sheetMatched
    rw [h.made, nextId]
    have unmade : (appendEntry e w).noteMade e.id = entryMade e w := by rw [← nextId]; rfl
    rw [unmade, show (cleanSheet m).decoded = .clean m from rfl, is, ← id]
    exact one.stays (fun _ => by rw [gate]; exact h.gate) (fun _ => by rw [arrival]; exact h.arrival)
  refine ⟨?_, one.entered h.unqueued h.planned⟩
  rw [h.taken, enterRow_one h.listEmpty, enterSheet_eq, matched]

theorem rows : (event (takeBar .left pos c false) s).line.tally.rowsRead = satInc s.line.tally.rowsRead := by
  rw [event_rows, h.taken, (enterRow_taken _ _).rows, h.ready.rows]

theorem sheets :
    (event (takeBar .left pos c false) s).line.tally.sheetsTracked = satInc s.line.tally.sheetsTracked := by
  have finished : ∀ v, RowKept v (rowFinished row v) := fun v =>
    ((requestKnife_rowKept row v).trans (planRow_rowKept _)).trans (evalTrackFull_rowKept _)
  rw [(event_runsOn _ s).sheets, h.taken, enterRow_one h.listEmpty, (finished _).sheets, enterSheet_sheets, h.ready.sheets]

/-- An entry that stays WASTE takes no gate firing. -/
theorem ends_waste (is : matchEntry e.id (.clean m) (entryMade e w) = q) (one : OneMatched e s q) :
    (event (takeBar .left pos c false) s).track = q.track ∧ (event (takeBar .left pos c false) s).table = q.table ∧
      (event (takeBar .left pos c false) s).firing.queue = [knifeFiring s row] ∧
      ((event (takeBar .left pos c false) s).port .job).conds = (q.port .job).conds := by
  obtain ⟨own, entered⟩ := h.runs is one rfl rfl rfl
  obtain ⟨ends, queue⟩ := rowFinished_waste entered h.waste (one.knifeAhead h.future)
  obtain ⟨track, table, firing, conds⟩ := event_finishes own ends
  rw [one.knife row] at queue
  exact ⟨track, table, by rw [firing, queue], conds⟩

theorem filler (kind : m.kind = .filler) :
    (event (takeBar .left pos c false) s).track = { s.track with list := [e], nextId := s.track.nextId + 1 } ∧
      (event (takeBar .left pos c false) s).firing.queue = [knifeFiring s row] ∧
      (event (takeBar .left pos c false) s).table = s.table := by
  obtain ⟨track, table, queue, -⟩ := h.ends_waste (matchEntry_filler rfl kind _ _) h.unmatched
  exact ⟨track.trans h.track, queue, table.trans h.table⟩

theorem orphan (page : m.kind = .page) (later : m.page ≠ 1) (ref : s.track.ref = .none)
    (fresh : s.track.orphanRun = false) :
    (event (takeBar .left pos c false) s).track =
        { s.track with list := [e], nextId := s.track.nextId + 1, orphanRun := true } ∧
      { cond := .unexpectedPages, param := .orphan (some m.tag) .notFirst } ∈
        ((event (takeBar .left pos c false) s).port .job).conds ∧
      (event (takeBar .left pos c false) s).firing.queue = [knifeFiring s row] ∧
      (event (takeBar .left pos c false) s).table = s.table := by
  have fresh' : (entryMade e w).track.orphanRun = false := by rw [h.track]; exact fresh
  have matched : matchEntry e.id (.clean m) (entryMade e w) = makeOrphan (some m.tag) .notFirst (entryMade e w) := by
    rw [matchEntry_page rfl (.inl page), matchPage_none (by rw [h.track]; exact ref), matchStart_notFirst later]
  have begins := makeOrphan_begins fresh' (some m.tag) .notFirst
  have track := makeOrphan_track fresh' (some m.tag) .notFirst
  have same : SameExcept [.links, .track, .ev] (entryMade e w) (makeOrphan (some m.tag) .notFirst (entryMade e w)) := by
    rw [begins]
    exact (raiseCond_same _ _ _).comp (setTrack_same _) (by decide) (by decide)
  have asked : OnlyRaised (entryMade e w) (makeOrphan (some m.tag) .notFirst (entryMade e w)) := by
    rw [begins]
    exact (raiseCond_onlyRaised _ _ _).trans (.of_ev rfl)
  have pending := makeOrphan_pending fresh' (some m.tag) .notFirst
  generalize makeOrphan (some m.tag) .notFirst (entryMade e w) = q at matched track same asked pending
  have one : OneMatched e s q :=
    h.unmatched.goesOn (by rw [track, h.track]) rfl asked (same .firing (by decide)) (same .web (by decide))
      (same .line (by decide)) (congrArg SetTable.profile (same .table (by decide)))
  obtain ⟨track', table', queue, conds⟩ := h.ends_waste matched one
  rw [track', table', queue, conds, track, h.track, same .table (by decide), h.table]
  exact ⟨rfl, pending, rfl, rfl⟩

/-- Page 1 of a PENDING set with more pages starts the set, and its gate firing joins the knife's (R81, R94). -/
theorem starts {r : SetRec} (ok : TableOk s.table) (page : m.kind = .page) (first : m.page = 1) (ref : s.track.ref = .none)
    (tagged : s.findTag m.tag = some r) (pending : r.state = .pending) (colour : r.colour = m.colour) (more : 1 < r.pages)
    (open' : e.pastGate = false) (gateFuture : ahead s.web.position (gateFiring s e).firePoint = true) :
    (event (takeBar .left pos c false) s).track =
        { s.track with
          list := [e.assigned r.number (some 1) .accumulate]
          nextId := s.track.nextId + 1
          ref := .reading r.number r.tag r.colour
          orphanRun := false } ∧
      (event (takeBar .left pos c false) s).findSet r.number = some { r with state := .active, pagesRead := 1 } ∧
      (event (takeBar .left pos c false) s).firing.planned = .accumulate ∧
      ∀ f, f ∈ (event (takeBar .left pos c false) s).firing.queue ↔ f = knifeFiring s row ∨ f = gateFiring s e := by
  have found : (entryMade e w).findSet r.number = some r := by
    rw [findSet_of_table h.table]
    exact findSet_of_findTag ok tagged
  have tagged' : (entryMade e w).findTag m.tag = some r := by
    unfold State.findTag
    rw [h.table]
    exact tagged
  have matched : matchEntry e.id (.clean m) (entryMade e w) =
      acceptPage e.id r.number m (startSet r ((entryMade e w).setOrphanRun false)) := by
    rw [matchEntry_page rfl (.inl page), matchPage_none (by rw [h.track]; exact ref),
      matchStart_starts found tagged' first colour pending (.inl ⟨page, more⟩)]
  have accepted := acceptPage_accepted (m := m) (s := startSet r ((entryMade e w).setOrphanRun false))
    (findSheet_single (s := entryMade e w) h.unmatched.list)
    (startSet_found (s := (entryMade e w).setOrphanRun false) found) (.inl page)
  have track := acceptPage_starts_track (r := r) page h.unmatched.list
  rw [first] at track
  have same := acceptPage_starts_same (e := e) (r := r) page (entryMade e w)
  generalize acceptPage e.id r.number m (startSet r ((entryMade e w).setOrphanRun false)) = q at matched accepted track same
  have one : OneMatched (e.assigned r.number (some 1) .accumulate) s q :=
    h.unmatched.goesOn (by rw [track]) rfl (.of_ev (same.1 .ev (by decide))) (same.1 .firing (by decide))
      (same.1 .web (by decide)) (same.1 .line (by decide)) same.2
  have gates := one.gateFiring_eq (e := e) rfl rfl rfl
  obtain ⟨own, entered⟩ := h.runs matched one rfl rfl rfl
  obtain ⟨ends, planned, queue⟩ := rowFinished_accumulate entered open' rfl (one.knifeAhead h.future)
    (by rw [gates, show (q.withTally Tally.tracked).web = s.web from one.web]; exact gateFuture)
  obtain ⟨track', table', firing, -⟩ := event_finishes own ends
  refine ⟨?_, ?_, by rw [firing, planned], fun f => by rw [firing, queue f, one.knife row, gates]⟩
  · rw [track', track, h.track]
  · rw [findSet_of_table table']
    exact (accepted.page page).2

end FirstRow

/-- Settles O44: the bar's row is one entry, matched by its mark, and then the row's firings follow. -/
theorem firstRowIsTracked : Obligations.FirstRowIsTracked := by
  unfold Obligations.FirstRowIsTracked
  intro pos row c m entry knife s noSweep loaded oneUp hunt empty unqueued planned decoded small isRow gate arrival next
    isEntry isKnife future
  have knifeOwn : knifeFiring s row = knife := isKnife.symm
  obtain ⟨w, ready, taken⟩ := takeBar_firstRow (c := c) oneUp hunt decoded isRow next
  have first : FirstRow pos row c m entry s w :=
    { ready := ready, taken := taken, empty := empty, unqueued := unqueued, planned := planned, small := small
      made := (ready.newEntry row m).trans isEntry.symm
      own := by rw [isEntry]
      waste := by rw [isEntry]
      gate := by rw [isEntry]; exact gate
      arrival := by rw [isEntry]; exact arrival
      future := by rw [knifeOwn]; exact future }
  rw [exec_barEvent, readBar_goesOn noSweep loaded (fun _ => rfl), ← knifeOwn]
  refine ⟨_, rfl, first.rows, first.sheets, first.filler, first.orphan,
    fun r gateEntry ok page one ref tagged pending _ colour more open' isGate gateFuture => ?_⟩
  have target : gateTarget s entry = minus entry.gateArrival s.line.geometry.gateAdvance := by rw [isEntry]; rfl
  have gateOwn : gateFiring s entry = gateEntry := by
    unfold gateFiring
    rw [isGate, target, first.own]
  rw [← gateOwn] at gateFuture ⊢
  exact first.starts ok page one ref tagged pending colour more open' gateFuture

end Sys2Proof.Machine
end

section
/-! PROOFS. The gate plan: a firing wherever the disposition changes (R93, R94). -/

namespace Sys2Proof.Machine
variable {s t u v : State} {e : SheetEntry} {es : List SheetEntry} {running : Disposition}

/-! ### Where the disposition changes -/

/-- The disposition of the last of these sheets, or the one given when there is none. -/
def lastDisposition (running : Disposition) (es : List SheetEntry) : Disposition :=
  (es.getLast?.map SheetEntry.disposition).getD running

theorem lastDisposition_cons (running : Disposition) (x : SheetEntry) (xs : List SheetEntry) :
    lastDisposition running (x :: xs) = lastDisposition x.disposition xs := by
  unfold lastDisposition
  cases xs with
  | nil => rfl
  | cons y ys =>
    rw [List.getLast?_cons_cons]
    cases last : (y :: ys).getLast? with
    | none => simp at last
    | some z => rfl

/-- The disposition changes at sheet e of these, which the gate meets first from `running`. -/
def ChangesAt (running : Disposition) (es : List SheetEntry) (e : SheetEntry) : Prop :=
  ∃ before later, es = before ++ e :: later ∧ e.disposition ≠ lastDisposition running before

theorem changesAt_nil : ¬ ChangesAt running [] e := by
  rintro ⟨before, later, split, -⟩
  simp at split

theorem changesAt_cons {x : SheetEntry} {xs : List SheetEntry} :
    ChangesAt running (x :: xs) e ↔ (e = x ∧ x.disposition ≠ running) ∨ ChangesAt x.disposition xs e := by
  constructor
  · rintro ⟨before, later, split, changes⟩
    cases before with
    | nil =>
      obtain ⟨rfl, rfl⟩ := List.cons.inj split
      exact .inl ⟨rfl, changes⟩
    | cons y ys =>
      obtain ⟨rfl, rest⟩ := List.cons.inj split
      rw [lastDisposition_cons] at changes
      exact .inr ⟨ys, later, rest, changes⟩
  · rintro (⟨rfl, changes⟩ | ⟨before, later, rfl, changes⟩)
    · exact ⟨[], xs, rfl, changes⟩
    · exact ⟨x :: before, later, rfl, by rw [lastDisposition_cons]; exact changes⟩

/-! ### One entry of a walk, apart from the one before it -/

/-- The GATE entry of a sheet to its disposition. -/
def gateEntry (s : State) (e : SheetEntry) : Firing :=
  { actuator := .gate e.id e.disposition, target := gateTarget s e,
    firePoint := firePointOf s (.gate e.id e.disposition) (gateTarget s e) }

/-- The queue has no GATE entry at a target. -/
def NoGateAt (target : Pos) (s : State) : Prop :=
  ∀ f ∈ s.firing.queue, ∀ id d, f.actuator = .gate id d → f.target ≠ target

theorem NoGateAt.standing {target : Pos} (h : NoGateAt target s) (id : Nat) (d : Disposition) :
    standing s (.gate id d) target = none := by
  refine List.find?_eq_none.2 fun f mem => ?_
  cases a : f.actuator with
  | knife row => simp [Actuator.same]
  | gate i x =>
    have apart := h f mem i x a
    simp [apart]

/-- The state after a sheet apart from the others was walked: its GATE entry joins the queue where its disposition is not
the one the gate has (R93). -/
def gateTurned (running : Disposition) (e : SheetEntry) (s : State) : State :=
  if e.disposition = running then s else joinQueue (gateEntry s e) s

/-- What a walk over these sheets needs to find each of them and queue a firing for each. -/
structure Walkable (es : List SheetEntry) (s : State) : Prop where
  found : ∀ e ∈ es, s.findSheet e.id = some e
  future : ∀ e ∈ es, ahead s.web.position (gateEntry s e).firePoint = true
  targets : (es.map (gateTarget s)).Nodup
  free : ∀ e ∈ es, NoGateAt (gateTarget s e) s
  room : s.firing.queue.length + es.length ≤ 32

theorem walkEntry_turns {prev : Option Nat} (found : s.findSheet e.id = some e)
    (apart : ∀ p, prev.bind s.findSheet = some p → gateTarget s p ≠ gateTarget s e) (free : NoGateAt (gateTarget s e) s)
    (room : s.firing.queue.length < 32) (future : ahead s.web.position (gateEntry s e).firePoint = true) :
    walkEntry prev e.id running s = (gateTurned running e s, e.disposition) := by
  have made := walkFiring_makes (running := running) (free.standing e.id e.disposition) room future
  have alone : (if e.disposition = running then (s, running) else
      ((walkFiring e e.disposition running s).1, (walkFiring e e.disposition running s).2.1)) =
      (gateTurned running e s, e.disposition) := by
    unfold gateTurned
    split
    · next same => rw [same]
    · rw [made]
      rfl
  unfold walkEntry
  rw [found]
  dsimp only
  rw [alone]
  split
  · rfl
  · next p foundPrev => exact if_neg fun parted => apart p foundPrev parted.1

theorem gateTurned_firing (running : Disposition) (e : SheetEntry) (s : State) :
    ∃ q, gateTurned running e s = s.setQueue q ∧ q.length ≤ s.firing.queue.length + 1 ∧
      ∀ f, f ∈ q ↔ f ∈ s.firing.queue ∨ (e.disposition ≠ running ∧ f = gateEntry s e) := by
  by_cases same : e.disposition = running
  · exact ⟨s.firing.queue, if_pos same, Nat.le_succ _, fun f => by simp [same]⟩
  · refine ⟨_, if_neg same, ?_, fun f => ?_⟩
    · rw [orderQueue_length, List.length_append]
      exact Nat.le_refl _
    · rw [mem_orderQueue, List.mem_append, List.mem_singleton]
      simp [same]

/-- The rest of the sheets can be walked after the first. -/
theorem Walkable.tail {es : List SheetEntry} {q : List Firing} (h : Walkable (e :: es) s)
    (length : q.length ≤ s.firing.queue.length + 1)
    (mem : ∀ f, f ∈ q ↔ f ∈ s.firing.queue ∨ (e.disposition ≠ running ∧ f = gateEntry s e)) :
    Walkable es (s.setQueue q) where
  found x memx := h.found x (List.mem_cons_of_mem _ memx)
  future x memx := h.future x (List.mem_cons_of_mem _ memx)
  targets := (List.nodup_cons.1 h.targets).2
  free x memx f queued id d gate := by
    rcases (mem f).1 queued with old | ⟨-, rfl⟩
    · exact h.free x (List.mem_cons_of_mem _ memx) f old id d gate
    · intro same
      refine (List.nodup_cons.1 h.targets).1 ?_
      exact List.mem_map.2 ⟨x, memx, same.symm⟩
  room := by
    have room := h.room
    rw [List.length_cons] at room
    show q.length + es.length ≤ 32
    omega

/-- What a walk over sheets with distinct gate targets leaves (R93, R94). -/
structure Walked (running : Disposition) (es : List SheetEntry) (s t : State) : Prop where
  only : t = s.setFiring t.firing
  actual : t.firing.actual = s.firing.actual
  planned : t.firing.planned = lastDisposition running es
  queue : ∀ f, f ∈ t.firing.queue ↔ f ∈ s.firing.queue ∨ ∃ e, ChangesAt running es e ∧ f = gateEntry s e

theorem walk_walked (es : List SheetEntry) : ∀ (running : Disposition) (prev : Option Nat) (s : State), Walkable es s →
    (∀ p, prev.bind s.findSheet = some p → gateTarget s p ∉ es.map (gateTarget s)) →
    Walked running es s (walk prev (es.map SheetEntry.id) running s) := by
  induction es with
  | nil =>
    refine fun running _ s _ _ => ⟨rfl, rfl, rfl, fun f => ?_⟩
    simp only [changesAt_nil, false_and, exists_false, or_false]
    exact Iff.rfl
  | cons e es ih =>
    intro running prev s walkable apart
    have mem : e ∈ e :: es := List.mem_cons_self
    have entry : walkEntry prev e.id running s = (gateTurned running e s, e.disposition) := by
      refine walkEntry_turns (walkable.found e mem) (fun p found same => ?_) (walkable.free e mem) ?_ (walkable.future e mem)
      · exact apart p found (List.mem_map.2 ⟨e, mem, same.symm⟩)
      · have room := walkable.room
        rw [List.length_cons] at room
        omega
    obtain ⟨q, turned, length, queue⟩ := gateTurned_firing running e s
    have rest := ih e.disposition (some e.id) (s.setQueue q) (walkable.tail length queue) (fun p found same => by
      have own : p = e := Option.some.inj (found.symm.trans (walkable.found e mem))
      rw [own] at same
      exact (List.nodup_cons.1 walkable.targets).1 same)
    rw [List.map_cons]
    unfold walk
    rw [entry, turned]
    dsimp only
    generalize walk (some e.id) (es.map SheetEntry.id) e.disposition (s.setQueue q) = t at rest
    refine ⟨rest.only, rest.actual, by rw [rest.planned, lastDisposition_cons], fun f => ?_⟩
    rw [rest.queue f]
    show f ∈ q ∨ (∃ x, ChangesAt e.disposition es x ∧ f = gateEntry s x) ↔ _
    rw [queue f]
    constructor
    · rintro ((old | ⟨changes, rfl⟩) | ⟨x, changes, rfl⟩)
      · exact .inl old
      · exact .inr ⟨e, changesAt_cons.2 (.inl ⟨rfl, changes⟩), rfl⟩
      · exact .inr ⟨x, changesAt_cons.2 (.inr changes), rfl⟩
    · rintro (old | ⟨x, changes, rfl⟩)
      · exact .inl (.inl old)
      · rcases changesAt_cons.1 changes with ⟨rfl, changes⟩ | changes
        · exact .inl (.inr ⟨changes, rfl⟩)
        · exact .inr ⟨x, changes, rfl⟩

/-! ### The two walks of the plan -/

/-- The sheets before the gate, in reading order. -/
def openSheets (s : State) : List SheetEntry := s.track.list.filter fun e => !e.pastGate

theorem beforeGate_eq (s : State) : beforeGate s = (openSheets s).map SheetEntry.id := rfl

theorem openSheets_found (once : (s.track.list.map SheetEntry.id).Nodup) (mem : e ∈ openSheets s) :
    s.findSheet e.id = some e := findSheet_of_mem once (List.mem_of_mem_filter mem)

theorem mem_dropGates {f : Firing} :
    f ∈ (dropGates s).firing.queue ↔ f ∈ s.firing.queue ∧ ∃ row, f.actuator = .knife row := by
  show f ∈ s.firing.queue.filter _ ↔ _
  rw [List.mem_filter]
  refine and_congr_right fun _ => ?_
  cases f.actuator <;> simp [Actuator.same]

theorem dropGates_noGate (target : Pos) (s : State) : NoGateAt target (dropGates s) := fun f mem id d gate => by
  obtain ⟨-, row, knife⟩ := mem_dropGates.1 mem
  cases gate.symm.trans knife

theorem dropGates_length (s : State) : (dropGates s).firing.queue.length ≤ s.firing.queue.length :=
  List.length_filter_le _ _

/-- Every gate fire point is ahead of P. -/
def GatesAhead (s : State) : Prop :=
  ∀ e ∈ s.track.list, e.pastGate = false → ahead s.web.position (gateEntry s e).firePoint = true

theorem GatesAhead.openSheets (h : GatesAhead s) (mem : e ∈ openSheets s) :
    ahead s.web.position (gateEntry s e).firePoint = true := by
  obtain ⟨inList, open'⟩ := List.mem_filter.1 mem
  exact h e inList (by simpa using open')

theorem rederive_walked (once : (s.track.list.map SheetEntry.id).Nodup) (future : GatesAhead s)
    (targets : ((openSheets s).map (gateTarget s)).Nodup) (room : s.firing.queue.length + (openSheets s).length ≤ 32) :
    Walked s.firing.actual (openSheets s) (dropGates s.noneMade) (rederive s) := by
  refine walk_walked (openSheets s) s.firing.actual none (dropGates s.noneMade) ⟨fun e mem => openSheets_found once mem,
    fun e mem => future.openSheets mem, targets, fun e _ => dropGates_noGate _ _, ?_⟩ nofun
  have less := dropGates_length s.noneMade
  have same : s.noneMade.firing = s.firing := rfl
  rw [same] at less
  omega

/-- The sheets before the gate made at the event under way. -/
def madeSheets (s : State) : List SheetEntry := (openSheets s).filter fun e => s.ev.made.contains e.id

theorem extendPlan_walked (once : (s.track.list.map SheetEntry.id).Nodup) (future : GatesAhead s)
    (targets : ((openSheets s).map (gateTarget s)).Nodup) (room : s.firing.queue.length + (madeSheets s).length ≤ 32)
    (free : ∀ f ∈ s.firing.queue, ∀ id d, f.actuator = .gate id d → f.target ∉ (madeSheets s).map (gateTarget s)) :
    Walked s.firing.planned (madeSheets s) s.noneMade (extendPlan s) := by
  have sub : (madeSheets s).Sublist (openSheets s) := List.filter_sublist
  have new : (beforeGate s).filter (fun id => s.ev.made.contains id) = (madeSheets s).map SheetEntry.id := by
    rw [beforeGate_eq, List.filter_map]
    rfl
  have walked := walk_walked (madeSheets s) s.firing.planned
    ((beforeGate s).filter fun id => !(s.ev.made.contains id)).getLast? s.noneMade
    ⟨fun e mem => openSheets_found once (sub.subset mem), fun e mem => future.openSheets (sub.subset mem),
      (sub.map _).nodup targets, fun e mem f queued id d gate same => free f queued id d gate (List.mem_map.2 ⟨e, mem, same.symm⟩),
      room⟩ (fun p found same => ?_)
  · unfold extendPlan
    dsimp only
    rw [new]
    exact walked
  · obtain ⟨x, made, target⟩ := List.mem_map.1 same
    obtain ⟨id, last, lookup⟩ := Option.bind_eq_some_iff.1 found
    obtain ⟨before, old⟩ := List.mem_filter.1 (List.mem_of_getLast? last)
    rw [beforeGate_eq] at before
    obtain ⟨y, mem, rfl⟩ := List.mem_map.1 before
    have own : p = y := Option.some.inj (lookup.symm.trans (openSheets_found once mem))
    have equal : x = y := List.inj_on_of_nodup_map targets (sub.subset made) mem (by rw [← own]; exact target)
    have isMade := (List.mem_filter.1 made).2
    rw [equal] at isMade
    exact absurd old (by simpa using isMade)

end Sys2Proof.Machine
end

section
/-! PROOFS. Two sheets at one gate target go to WASTE together (R95). -/

namespace Sys2Proof.Machine
variable {s t u v : State} {p e : SheetEntry} {running : Disposition}

/-! ### What a rewritten sheet leaves to the walk -/

theorem rewriteSheet_profile (id : Nat) (d : Disposition) (s : State) :
    (rewriteSheet id d s).table.profile = s.table.profile :=
  ((Moves.here (c := .inner) (g := false) s).rewriteSheet id d).inner_profile

theorem gateTarget_congr (profile : t.table.profile = s.table.profile) (geometry : t.line.geometry = s.line.geometry)
    (e : SheetEntry) : gateTarget t e = gateTarget s e := by
  unfold gateTarget gateArrivalOf mergePosition
  rw [profile, geometry]

theorem gateTarget_rewriteSheet (id : Nat) (d : Disposition) (e : SheetEntry) (s : State) :
    gateTarget (rewriteSheet id d s) e = gateTarget s e :=
  gateTarget_congr (rewriteSheet_profile id d s) (rewriteSheet_keepsFirings id d s).geometry e

theorem rewriteSheet_firing (id : Nat) (d : Disposition) (s : State) : (rewriteSheet id d s).firing = s.firing :=
  rewriteSheet_same id d s .firing (by decide)

theorem RewritesTo.findSheet_other {id other : Nat} {d : Disposition} (h : RewritesTo id e d s t) (apart : other ≠ id) :
    t.findSheet other = s.findSheet other := by
  rw [findSheet_of_map (f := fun x => if x.id = id then { x with disposition := d } else x)
    (fun x => by split <;> rfl) h.list]
  cases found : s.findSheet other with
  | none => rfl
  | some x => rw [Option.map_some, if_neg (by rw [(findSheet_mem found).2]; exact apart)]

/-! ### The pair -/

/-- Two sheets alone before the gate, with one gate target and differing dispositions. -/
structure Pair (p e : SheetEntry) (s : State) : Prop where
  once : (s.track.list.map SheetEntry.id).Nodup
  future : GatesAhead s
  both : openSheets s = [p, e]
  target : gateTarget s p = gateTarget s e
  parted : p.disposition ≠ e.disposition
  room : s.firing.queue.length + 2 ≤ 32

namespace Pair

theorem mem_first (h : Pair p e s) : p ∈ openSheets s := by simp [h.both]

theorem mem_second (h : Pair p e s) : e ∈ openSheets s := by simp [h.both]

theorem apart (h : Pair p e s) : p.id ≠ e.id := by
  have ids : ((openSheets s).map SheetEntry.id).Nodup := (List.filter_sublist.map _).nodup h.once
  rw [h.both] at ids
  simpa using ids

/-- The other sheets before the gate stand at WASTE, when the one named is the one to rewrite. -/
theorem others (h : Pair p e s) {x : SheetEntry} (rest : ∀ y, y = p ∨ y = e → y.id ≠ x.id → y.disposition = .waste) :
    ∀ y ∈ s.track.list, y.pastGate = false → y.id ≠ x.id → y.disposition = .waste := fun y mem open' other => by
  have among : y ∈ openSheets s := List.mem_filter.2 ⟨mem, by simpa using open'⟩
  rw [h.both] at among
  exact rest y (by simpa using among) other

/-- The queue when the pair's second sheet is reached: the knife firings, and the first sheet's gate firing where the gate
does not stand at its disposition. -/
theorem first (h : Pair p e s) : ∃ q, walkEntry none p.id s.firing.actual (dropGates s.noneMade) =
      ((dropGates s.noneMade).setQueue q, p.disposition) ∧ q.length ≤ s.firing.queue.length + 1 ∧
    ∀ f, f ∈ q ↔ f ∈ (dropGates s.noneMade).firing.queue ∨
      (p.disposition ≠ s.firing.actual ∧ f = gateEntry s p) := by
  have less : (dropGates s.noneMade).firing.queue.length ≤ s.firing.queue.length := dropGates_length s.noneMade
  have entry : walkEntry none p.id s.firing.actual (dropGates s.noneMade) =
      (gateTurned s.firing.actual p (dropGates s.noneMade), p.disposition) :=
    walkEntry_turns (openSheets_found h.once h.mem_first) nofun (dropGates_noGate _ _)
      (Nat.lt_of_le_of_lt less (by have := h.room; omega)) (h.future.openSheets h.mem_first)
  obtain ⟨q, turned, length, mem⟩ := gateTurned_firing s.firing.actual p (dropGates s.noneMade)
  exact ⟨q, by rw [entry, turned], by omega, mem⟩

/-- The walk of the pair ends with the walk of its second sheet (R95). -/
theorem rederive_eq (h : Pair p e s) {q : List Firing}
    (entry : walkEntry none p.id s.firing.actual (dropGates s.noneMade) =
      ((dropGates s.noneMade).setQueue q, p.disposition)) :
    rederive s = (walkPair p e p.disposition ((dropGates s.noneMade).setQueue q)).1.setFiring
      ((walkPair p e p.disposition ((dropGates s.noneMade).setQueue q)).1.firing.plannedAt
        (walkPair p e p.disposition ((dropGates s.noneMade).setQueue q)).2) := by
  have first : ((dropGates s.noneMade).setQueue q).findSheet p.id = some p := openSheets_found h.once h.mem_first
  have second : ((dropGates s.noneMade).setQueue q).findSheet e.id = some e := openSheets_found h.once h.mem_second
  have pair : walkEntry (some p.id) e.id p.disposition ((dropGates s.noneMade).setQueue q) =
      walkPair p e p.disposition ((dropGates s.noneMade).setQueue q) := by
    unfold walkEntry
    rw [second]
    dsimp only [Option.bind_some]
    rw [first]
    exact if_pos ⟨h.target, h.parted⟩
  unfold rederive
  rw [beforeGate_eq, h.both, List.map_cons, List.map_cons, List.map_nil]
  unfold walk
  rw [entry]
  dsimp only
  unfold walk
  rw [pair]
  rfl

end Pair

/-- The pair's end: both sheets WASTE, the sheet x that was ACCUMULATE having failed its set, and every gate firing to
WASTE at the pair's target. -/
structure PairWasted (p e x : SheetEntry) (target : Pos) (s t : State) : Prop where
  first : t.findSheet p.id = some { p with disposition := .waste }
  second : t.findSheet e.id = some { e with disposition := .waste }
  gates : ∀ f ∈ t.firing.queue, ∀ id d, f.actuator = .gate id d → d = .waste ∧ f.target = target
  made : s.firing.actual = .accumulate → ∃ f ∈ t.firing.queue, ∃ id, f.actuator = .gate id .waste
  fails : ∀ n r, x.set = some n → s.findSet n = some r → r.state.mayFail = true → r.cause = none →
    t.findSet n = some { r with state := .rejecting, cause := some .missedFiring, failingStep := none }

theorem SheetEntry.waste_eq {e : SheetEntry} (waste : e.disposition = .waste) : { e with disposition := .waste } = e := by
  rw [← waste]

namespace Pair

/-- The first sheet WASTE: the second follows it, and the plan stays at WASTE. -/
theorem second_wasted (h : Pair p e s) (waste : p.disposition = .waste) (accumulate : e.disposition = .accumulate)
    {q : List Firing} (mem : ∀ f, f ∈ q ↔ f ∈ (dropGates s.noneMade).firing.queue ∨
      (p.disposition ≠ s.firing.actual ∧ f = gateEntry s p)) :
    ∃ v, walkPair p e p.disposition ((dropGates s.noneMade).setQueue q) = (v, .waste) ∧
      PairWasted p e e (gateTarget s e) s v := by
  have found : ((dropGates s.noneMade).setQueue q).findSheet e.id = some e := openSheets_found h.once h.mem_second
  have foundFirst : ((dropGates s.noneMade).setQueue q).findSheet p.id = some p := openSheets_found h.once h.mem_first
  have rewrites := rewriteSheet_rewritesTo (s := (dropGates s.noneMade).setQueue q) (d := .waste) found
    (by rw [accumulate]; simp) (h.others (x := e) fun y among other => by
      rcases among with rfl | rfl
      · exact waste
      · exact absurd rfl other)
  have firing := rewriteSheet_firing e.id .waste ((dropGates s.noneMade).setQueue q)
  have walked : walkPair p e p.disposition ((dropGates s.noneMade).setQueue q) =
      (rewriteSheet e.id .waste ((dropGates s.noneMade).setQueue q), .waste) := by
    unfold walkPair
    dsimp only
    rw [waste]
    rfl
  refine ⟨_, walked, ?_, rewrites.sent.found, ?_, fun actual => ?_, fun n r => rewrites.fails n r rfl⟩
  · rw [rewrites.findSheet_other h.apart, foundFirst, SheetEntry.waste_eq waste]
  · intro f queued id d gate
    rw [firing] at queued
    rcases (mem f).1 queued with old | ⟨-, rfl⟩
    · obtain ⟨-, row, knife⟩ := mem_dropGates.1 old
      cases gate.symm.trans knife
    · cases gate
      exact ⟨waste, h.target⟩
  · rw [firing]
    exact ⟨_, (mem _).2 (.inr ⟨by rw [waste, actual]; simp, rfl⟩), p.id, by rw [← waste]; rfl⟩

theorem first_rewrites (h : Pair p e s) (accumulate : p.disposition = .accumulate) (waste : e.disposition = .waste)
    (q : List Firing) : RewritesTo p.id p .waste ((dropGates s.noneMade).setQueue q)
      (rewriteSheet p.id .waste ((dropGates s.noneMade).setQueue q)) :=
  rewriteSheet_rewritesTo (s := (dropGates s.noneMade).setQueue q) (openSheets_found h.once h.mem_first)
    (by rw [accumulate]; simp) (h.others (x := p) fun y among other => by
      rcases among with rfl | rfl
      · exact absurd rfl other
      · exact waste)

/-- The first sheet went to WASTE, the second stood there; v differs from that state in the queue only. -/
theorem first_wasted (h : Pair p e s) (waste : e.disposition = .waste) {q : List Firing}
    (rewrites : RewritesTo p.id p .waste ((dropGates s.noneMade).setQueue q) u) (track : v.track = u.track)
    (table : v.table = u.table)
    (gates : ∀ f ∈ v.firing.queue, ∀ id d, f.actuator = .gate id d → d = .waste ∧ f.target = gateTarget s e)
    (made : s.firing.actual = .accumulate → ∃ f ∈ v.firing.queue, ∃ id, f.actuator = .gate id .waste) :
    PairWasted p e p (gateTarget s e) s v where
  first := by
    rw [findSheet_of_track track]
    exact rewrites.sent.found
  second := by
    have found : ((dropGates s.noneMade).setQueue q).findSheet e.id = some e := openSheets_found h.once h.mem_second
    rw [findSheet_of_track track, rewrites.findSheet_other h.apart.symm, found, SheetEntry.waste_eq waste]
  gates := gates
  made := made
  fails n r set found may good := by
    rw [findSet_of_table table]
    exact rewrites.fails n r rfl set found may good

/-- The one GATE entry of the queue is the first sheet's. -/
theorem gate_first {q : List Firing} (mem : ∀ f, f ∈ q ↔ f ∈ (dropGates s.noneMade).firing.queue ∨
      (p.disposition ≠ s.firing.actual ∧ f = gateEntry s p)) {f : Firing} (queued : f ∈ q) {id : Nat} {d : Disposition}
    (gate : f.actuator = .gate id d) : p.disposition ≠ s.firing.actual ∧ f = gateEntry s p := by
  rcases (mem f).1 queued with old | new
  · obtain ⟨-, row, knife⟩ := mem_dropGates.1 old
    cases gate.symm.trans knife
  · exact new

/-- The first sheet ACCUMULATE and its gate firing made: it is reset to WASTE, the gate standing there. -/
theorem first_reset (h : Pair p e s) (accumulate : p.disposition = .accumulate) (waste : e.disposition = .waste)
    (actual : s.firing.actual = .waste) {q : List Firing}
    (mem : ∀ f, f ∈ q ↔ f ∈ (dropGates s.noneMade).firing.queue ∨
      (p.disposition ≠ s.firing.actual ∧ f = gateEntry s p)) :
    ∃ v, walkPair p e p.disposition ((dropGates s.noneMade).setQueue q) = (v, .waste) ∧
      PairWasted p e p (gateTarget s e) s v := by
  have rewrites := h.first_rewrites accumulate waste q
  have stands : standing ((dropGates s.noneMade).setQueue q) (.gate p.id .accumulate)
      (gateTarget ((dropGates s.noneMade).setQueue q) e) = some (gateEntry s p) := by
    have queued : gateEntry s p ∈ q := (mem _).2 (.inr ⟨by rw [accumulate, actual]; simp, rfl⟩)
    have fits : ((gateEntry s p).actuator.same (.gate p.id .accumulate) && (gateEntry s p).target == gateTarget s e) =
        true := by
      rw [show (gateEntry s p).target = gateTarget s e from h.target, beq_self_eq_true]
      rfl
    obtain ⟨f, found⟩ := Option.isSome_iff_exists.1 (List.find?_isSome (xs := q)
      (p := fun f => f.actuator.same (.gate p.id .accumulate) && f.target == gateTarget s e) |>.2 ⟨_, queued, fits⟩)
    have same := List.find?_some found
    refine found.trans ?_
    cases a : f.actuator with
    | knife row => simp [a, Actuator.same] at same
    | gate id d => rw [(gate_first mem (List.mem_of_find?_eq_some found) a).2]
  have walked : walkPair p e p.disposition ((dropGates s.noneMade).setQueue q) =
      (resetGate (gateTarget s e) .waste (rewriteSheet p.id .waste ((dropGates s.noneMade).setQueue q)), .waste) := by
    unfold walkPair
    dsimp only
    rw [accumulate]
    dsimp only
    rw [stands]
    exact if_pos (by rw [Option.map_some, ← accumulate]; rfl)
  refine ⟨_, walked, h.first_wasted waste rewrites rfl rfl (fun f queued id d gate => ?_) fun other => ?_⟩
  · have queue : (rewriteSheet p.id .waste ((dropGates s.noneMade).setQueue q)).firing.queue = q :=
      congrArg Scheduler.queue (rewriteSheet_firing _ _ _)
    change f ∈ List.map _ (rewriteSheet p.id .waste ((dropGates s.noneMade).setQueue q)).firing.queue at queued
    rw [queue] at queued
    obtain ⟨x, memx, is⟩ := List.mem_map.1 queued
    cases a : x.actuator with
    | knife row =>
      rw [a] at is
      rw [← is, a] at gate
      cases gate
    | gate i y =>
      have own : x.target = gateTarget s e := by
        rw [(gate_first mem memx a).2]
        exact h.target
      rw [a] at is
      dsimp only at is
      rw [if_pos own] at is
      rw [← is] at gate ⊢
      cases gate
      exact ⟨rfl, own⟩
  · cases actual.symm.trans other

/-- The first sheet ACCUMULATE where the gate stands at ACCUMULATE: a gate firing to WASTE is made for the second. -/
theorem first_follows (h : Pair p e s) (accumulate : p.disposition = .accumulate) (waste : e.disposition = .waste)
    (actual : s.firing.actual = .accumulate) {q : List Firing} (length : q.length ≤ s.firing.queue.length + 1)
    (mem : ∀ f, f ∈ q ↔ f ∈ (dropGates s.noneMade).firing.queue ∨
      (p.disposition ≠ s.firing.actual ∧ f = gateEntry s p)) :
    ∃ v, walkPair p e p.disposition ((dropGates s.noneMade).setQueue q) = (v, .waste) ∧
      PairWasted p e p (gateTarget s e) s v := by
  have rewrites := h.first_rewrites accumulate waste q
  have none' : ∀ f ∈ q, ∀ id d, f.actuator ≠ .gate id d := fun f queued id d gate =>
    (gate_first mem queued gate).1 (accumulate.trans actual.symm)
  have free : ∀ target, NoGateAt target ((dropGates s.noneMade).setQueue q) := fun target f queued id d gate =>
    absurd gate (none' f queued id d)
  have keeps := rewriteSheet_keepsFirings p.id .waste ((dropGates s.noneMade).setQueue q)
  have target : gateTarget (rewriteSheet p.id .waste ((dropGates s.noneMade).setQueue q)) e = gateTarget s e :=
    gateTarget_rewriteSheet _ _ _ _
  have queue : (rewriteSheet p.id .waste ((dropGates s.noneMade).setQueue q)).firing.queue = q :=
    congrArg Scheduler.queue (rewriteSheet_firing _ _ _)
  have free' : NoGateAt (gateTarget s e) (rewriteSheet p.id .waste ((dropGates s.noneMade).setQueue q)) :=
    fun f queued => free _ f (by rw [queue] at queued; exact queued)
  have future : ahead (rewriteSheet p.id .waste ((dropGates s.noneMade).setQueue q)).web.position
      (firePointOf (rewriteSheet p.id .waste ((dropGates s.noneMade).setQueue q)) (.gate e.id .waste) (gateTarget s e)) =
      true := by
    rw [keeps.web, keeps.firePointOf_eq]
    exact h.future.openSheets h.mem_second
  have stands : standing ((dropGates s.noneMade).setQueue q) (.gate p.id .accumulate)
      (gateTarget ((dropGates s.noneMade).setQueue q) e) = none := (free _).standing _ _
  have walked : walkPair p e p.disposition ((dropGates s.noneMade).setQueue q) =
      walkWasted p e .accumulate (rewriteSheet p.id .waste ((dropGates s.noneMade).setQueue q)) := by
    unfold walkPair
    dsimp only
    rw [accumulate]
    dsimp only
    rw [stands]
    exact if_neg (by simp)
  have room : (rewriteSheet p.id .waste ((dropGates s.noneMade).setQueue q)).firing.queue.length < 32 := by
    have := h.room
    rw [queue]
    omega
  generalize rewriteSheet p.id .waste ((dropGates s.noneMade).setQueue q) = b at *
  have made := walkFiring_makes (running := .accumulate) (e := e) (want := .waste)
    (by rw [target]; exact free'.standing _ _) room (by rw [target]; exact future)
  rw [target] at made
  have ends : walkWasted p e .accumulate b = (joinQueue
      { actuator := .gate e.id .waste, target := gateTarget s e,
        firePoint := firePointOf b (.gate e.id .waste) (gateTarget s e) } b, .waste) := by
    unfold walkWasted
    dsimp only
    rw [made]
    rfl
  refine ⟨_, walked.trans ends, h.first_wasted waste rewrites rfl rfl (fun f queued id d gate => ?_) fun _ => ?_⟩
  · rcases mem_joinQueue.1 queued with old | rfl
    · rw [queue] at old
      exact absurd gate (none' f old id d)
    · cases gate
      exact ⟨rfl, rfl⟩
  · exact ⟨_, mem_joinQueue.2 (.inr rfl), e.id, rfl⟩

/-- A re-derivation sends the pair to WASTE (R95). -/
theorem wasted (h : Pair p e s) : ∃ v x, PairWasted p e x (gateTarget s e) s v ∧
    rederive s = v.setFiring (v.firing.plannedAt .waste) ∧ ∀ y, y = p ∨ y = e → y.disposition = .accumulate → y = x := by
  obtain ⟨q, entry, length, mem⟩ := h.first
  have whole := h.rederive_eq entry
  cases first : p.disposition with
  | waste =>
    have second : e.disposition = .accumulate := by
      cases d : e.disposition with
      | waste => exact absurd (first.trans d.symm) h.parted
      | accumulate => rfl
    obtain ⟨v, walked, ends⟩ := h.second_wasted first second mem
    rw [walked] at whole
    refine ⟨v, e, ends, whole, fun y among accumulate => ?_⟩
    rcases among with rfl | rfl
    · cases first.symm.trans accumulate
    · rfl
  | accumulate =>
    have second : e.disposition = .waste := by
      cases d : e.disposition with
      | waste => rfl
      | accumulate => exact absurd (first.trans d.symm) h.parted
    have only : ∀ y, y = p ∨ y = e → y.disposition = .accumulate → y = p := fun y among accumulate => by
      rcases among with rfl | rfl
      · rfl
      · cases second.symm.trans accumulate
    cases actual : s.firing.actual with
    | waste =>
      obtain ⟨v, walked, ends⟩ := h.first_reset first second actual mem
      rw [walked] at whole
      exact ⟨v, p, ends, whole, only⟩
    | accumulate =>
      obtain ⟨v, walked, ends⟩ := h.first_follows first second actual length mem
      rw [walked] at whole
      exact ⟨v, p, ends, whole, only⟩

end Pair

/-- Settles O40: the two walks by induction on the sheets, then the pair. -/
theorem gatePlanFollowsTheDispositions : Obligations.GatePlanFollowsTheDispositions := by
  unfold Obligations.GatePlanFollowsTheDispositions
  intro s once future
  refine ⟨?_, fun p e both target parted room => ?_⟩
  · rintro es rfl targets
    refine ⟨fun room => ?_, ?_⟩
    · have walked := rederive_walked once future targets room
      refine ⟨by rw [walked.only]; rfl, by rw [walked.only]; rfl, by rw [walked.only]; rfl, walked.actual, walked.planned,
        fun f => ?_⟩
      rw [walked.queue f, mem_dropGates]
      refine or_congr_right ⟨?_, ?_⟩
      · rintro ⟨e, ⟨before, later, split, changes⟩, rfl⟩
        exact ⟨before, e, later, split, changes, rfl⟩
      · rintro ⟨before, e, later, split, changes, rfl⟩
        exact ⟨e, ⟨before, later, split, changes⟩, rfl⟩
    · rintro new rfl room free
      have walked := extendPlan_walked once future targets room free
      refine ⟨by rw [walked.only]; rfl, by rw [walked.only]; rfl, by rw [walked.only]; rfl, walked.actual, walked.planned,
        fun f => ?_⟩
      rw [walked.queue f]
      refine or_congr_right ⟨?_, ?_⟩
      · rintro ⟨e, ⟨before, later, split, changes⟩, rfl⟩
        exact ⟨before, e, later, split, changes, rfl⟩
      · rintro ⟨before, e, later, split, changes, rfl⟩
        exact ⟨e, ⟨before, later, split, changes⟩, rfl⟩
  · obtain ⟨v, x, ends, whole, only⟩ := Pair.wasted ⟨once, future, both, target, parted, room⟩
    rw [whole]
    refine ⟨ends.first, ends.second, rfl, ends.gates, ends.made, fun y n r among accumulate set found may good => ?_⟩
    rw [only y among accumulate] at set
    exact ends.fails n r set found may good

end Sys2Proof.Machine
end
